-- ==== Sys2Proof/Word.lean ====
section
/-! DEFINITION. The widths of the hardware's values (00_scope.md R8 to R10). Every value is an unsigned number. -/

namespace Sys2Proof

/-- An 8-bit value: a general register, a timer, a memory byte, an immediate `NN` (R8, R72). -/
abbrev Byte := BitVec 8

/-- A 16-bit value: `PC`, `I`, a stack slot, an instruction word `w` (R9, R70). -/
abbrev Word := BitVec 16

/-- A 12-bit address field `NNN` (R72). -/
abbrev Addr12 := BitVec 12

/-- The number of a general register, `X` or `Y`: every 4-bit value names one (R21). -/
abbrev Reg := Fin 16

/-- VF, the register that also serves as the flag (R23). -/
abbrev regVF : Reg := 15

/-- The sprite height `N` of DXYN, a row count 0 to 15 (R73). -/
abbrev Nibble := Fin 16

end Sys2Proof
end

