-- ==== Sys2Proof/Config.lean ====
section
/-! DEFINITION. What the hardware fixes (the parameter table, 00_scope.md R5), the spec's OPEN parameters at the
defaults the spec states (92_eei_decisions.md), and the one free value, the random byte (R143, D27). -/

namespace Sys2Proof

/-- `MEM_SIZE`: addresses 0x000 to 0xFFF exist and nothing above (R5, R54). -/
@[simp] def Config.memSize : Nat := 4096

/-- `PROG_BASE`: where a ROM goes and where `PC` stands after reset (R5, R37). -/
@[simp] def Config.progBase : Nat := 0x200

/-- `PROG_SPACE`: the longest ROM image the loader takes (R5, R181). -/
@[simp] def Config.progSpace : Nat := 3584

/-- `STACK_DEPTH` (R5, R29). -/
@[simp] def Config.stackDepth : Nat := 16

/-- `FB_W`, the columns of the framebuffer (R5, R33). -/
@[simp] def Config.fbWidth : Nat := 64

/-- `FB_H`, the rows of the framebuffer (R5, R33). -/
@[simp] def Config.fbHeight : Nat := 32

/-- `FONT_BASE`, OPEN (R5, D15), at the spec's default. Log 4. -/
@[simp] def Config.fontBase : Nat := 0

/-- `FONT`, OPEN (R5, D15): the table of R56, which the spec marks as general knowledge (G1). PRESUMED by the
spec, unsafe, log 4. -/
def Config.font : List Byte :=
  [0xF0, 0x90, 0x90, 0x90, 0xF0] ++ [0x20, 0x60, 0x20, 0x20, 0x70] ++
  [0xF0, 0x10, 0xF0, 0x80, 0xF0] ++ [0xF0, 0x10, 0xF0, 0x10, 0xF0] ++
  [0x90, 0x90, 0xF0, 0x10, 0x10] ++ [0xF0, 0x80, 0xF0, 0x10, 0xF0] ++
  [0xF0, 0x80, 0xF0, 0x90, 0xF0] ++ [0xF0, 0x10, 0x20, 0x40, 0x40] ++
  [0xF0, 0x90, 0xF0, 0x90, 0xF0] ++ [0xF0, 0x90, 0xF0, 0x10, 0xF0] ++
  [0xF0, 0x90, 0xF0, 0x90, 0x90] ++ [0xE0, 0x90, 0xE0, 0x90, 0xE0] ++
  [0xF0, 0x80, 0x80, 0x80, 0xF0] ++ [0xE0, 0x90, 0x90, 0x90, 0xE0] ++
  [0xF0, 0x80, 0xF0, 0x80, 0xF0] ++ [0xF0, 0x80, 0xF0, 0x80, 0x80]

/-- `ADMIT_ANNN_BNNN`, OPEN (R5, D2): families A and B are instructions. Log 5. -/
@[simp] def Config.admitAnnnBnnn : Bool := true

/-- `UNKNOWN_ADVANCES_PC`, OPEN (R5, D5): `PC` moves past an unknown word. Log 6. -/
@[simp] def Config.unknownAdvancesPc : Bool := true

/-- `MEMOP_ADVANCES_I`, OPEN (R5, D11): FX55 and FX65 leave `I` as it was. Log 7. -/
@[simp] def Config.memopAdvancesI : Bool := false

/-- The two registers a shift could take its operand from (D12). -/
inductive Config.ShiftSource where
  | vx
  | vy
deriving DecidableEq, Repr

/-- `SHIFT_SOURCE`, OPEN (R5, D12): 8XY6 and 8XYE shift `V[X]` in place. Log 8. -/
@[simp] def Config.shiftSource : Config.ShiftSource := .vx

/-- The random byte that the `k`-th step receives (R7, R143, R186): a free value, nothing constrains it (D27).
Safe: a statement proved of the model holds for every sequence of bytes. Log 2. -/
opaque Config.randomByte : Nat → Byte

end Sys2Proof
end

