-- ==== Sys2Proof/Syntax.lean ====
section
/-! DEFINITION. The instructions: one constructor per row of spec/opcode_table.json (30_encoding.md R74). The
operands are the fields of R72 that the row's pattern names; a fixed nibble is no operand. -/

namespace Sys2Proof

/-- The 34 instructions of R74, in the table's order. Each docstring gives the pattern and the rule. -/
inductive Instr where
  /-- 00E0, `CLS`: clear the display (R151). -/
  | cls
  /-- 00EE, `RET`: return from subroutine (R111). -/
  | ret
  /-- 1NNN, `JP NNN`: jump (R112). -/
  | jpNnn (nnn : Addr12)
  /-- 2NNN, `CALL NNN`: call subroutine (R113). -/
  | callNnn (nnn : Addr12)
  /-- 3XNN, `SE VX, NN`: skip if equal to immediate (R114). -/
  | seVxNn (x : Reg) (nn : Byte)
  /-- 4XNN, `SNE VX, NN`: skip if not equal to immediate (R115). -/
  | sneVxNn (x : Reg) (nn : Byte)
  /-- 5XY0, `SE VX, VY`: skip if registers equal (R116). -/
  | seVxVy (x y : Reg)
  /-- 6XNN, `LD VX, NN`: load immediate (R132). -/
  | ldVxNn (x : Reg) (nn : Byte)
  /-- 7XNN, `ADD VX, NN`: add immediate (R133). -/
  | addVxNn (x : Reg) (nn : Byte)
  /-- 8XY0, `LD VX, VY`: assign (R134). -/
  | ldVxVy (x y : Reg)
  /-- 8XY1, `OR VX, VY` (R135). -/
  | orVxVy (x y : Reg)
  /-- 8XY2, `AND VX, VY` (R136). -/
  | andVxVy (x y : Reg)
  /-- 8XY3, `XOR VX, VY` (R137). -/
  | xorVxVy (x y : Reg)
  /-- 8XY4, `ADD VX, VY`: add with carry out (R138). -/
  | addVxVy (x y : Reg)
  /-- 8XY5, `SUB VX, VY`: subtract with borrow flag (R139). -/
  | subVxVy (x y : Reg)
  /-- 8XY6, `SHR VX`: shift right by one; the `Y` field is cut from the word and ignored (R140). -/
  | shrVx (x y : Reg)
  /-- 8XY7, `SUBN VX, VY`: reverse subtract with borrow flag (R141). -/
  | subnVxVy (x y : Reg)
  /-- 8XYE, `SHL VX`: shift left by one; the `Y` field is cut from the word and ignored (R142). -/
  | shlVx (x y : Reg)
  /-- 9XY0, `SNE VX, VY`: skip if registers differ (R117). -/
  | sneVxVy (x y : Reg)
  /-- ANNN, `LD I, NNN`: load the index register (R171, admitted by D2). -/
  | ldINnn (nnn : Addr12)
  /-- BNNN, `JP V0, NNN`: jump with offset (R118, admitted by D2). -/
  | jpV0Nnn (nnn : Addr12)
  /-- CXNN, `RND VX, NN`: masked random byte (R143). -/
  | rndVxNn (x : Reg) (nn : Byte)
  /-- DXYN, `DRW VX, VY, N`: draw sprite (R152). -/
  | drwVxVyN (x y : Reg) (n : Nibble)
  /-- EX9E, `SKP VX`: skip if key pressed (R161). -/
  | skpVx (x : Reg)
  /-- EXA1, `SKNP VX`: skip if key not pressed (R162). -/
  | sknpVx (x : Reg)
  /-- FX07, `LD VX, DT`: read the delay timer (R165). -/
  | ldVxDt (x : Reg)
  /-- FX0A, `LD VX, K`: wait for a key (R164). -/
  | ldVxK (x : Reg)
  /-- FX15, `LD DT, VX`: set the delay timer (R166). -/
  | ldDtVx (x : Reg)
  /-- FX18, `LD ST, VX`: set the sound timer (R167). -/
  | ldStVx (x : Reg)
  /-- FX1E, `ADD I, VX`: add to the index register (R172). -/
  | addIVx (x : Reg)
  /-- FX29, `LD F, VX`: point `I` at a font glyph (R173). -/
  | ldFVx (x : Reg)
  /-- FX33, `LD B, VX`: store binary-coded decimal (R174). -/
  | ldBVx (x : Reg)
  /-- FX55, `LD [I], VX`: store registers `V[0]` to `V[X]` (R175). -/
  | ldMemVx (x : Reg)
  /-- FX65, `LD VX, [I]`: load registers `V[0]` to `V[X]` (R176). -/
  | ldVxMem (x : Reg)
deriving DecidableEq, Repr

end Sys2Proof
end

