-- ==== Sys2Proof/WellFormed.lean ====
section
/-! DEFINITION. Which terms of `Instr` are instructions of the hardware. The types already hold the bound of every
field (R72, R73), so the one check left is the parameter `ADMIT_ANNN_BNNN` (R5, D2). -/

namespace Sys2Proof

/-- Is the term an instruction when `ADMIT_ANNN_BNNN` has the value `admitAB`? Families A and B are instructions only
when it is true (R80, R118, R171). -/
def Instr.wellFormedWith (admitAB : Bool) (i : Instr) : Bool :=
  match i with
  | .ldINnn _ => admitAB
  | .jpV0Nnn _ => admitAB
  | .cls => true
  | .ret => true
  | .jpNnn _ => true
  | .callNnn _ => true
  | .seVxNn _ _ => true
  | .sneVxNn _ _ => true
  | .seVxVy _ _ => true
  | .ldVxNn _ _ => true
  | .addVxNn _ _ => true
  | .ldVxVy _ _ => true
  | .orVxVy _ _ => true
  | .andVxVy _ _ => true
  | .xorVxVy _ _ => true
  | .addVxVy _ _ => true
  | .subVxVy _ _ => true
  | .shrVx _ _ => true
  | .subnVxVy _ _ => true
  | .shlVx _ _ => true
  | .sneVxVy _ _ => true
  | .rndVxNn _ _ => true
  | .drwVxVyN _ _ _ => true
  | .skpVx _ => true
  | .sknpVx _ => true
  | .ldVxDt _ => true
  | .ldVxK _ => true
  | .ldDtVx _ => true
  | .ldStVx _ => true
  | .addIVx _ => true
  | .ldFVx _ => true
  | .ldBVx _ => true
  | .ldMemVx _ => true
  | .ldVxMem _ => true

/-- The check at this hardware's value of the parameter. -/
def Instr.wellFormed (i : Instr) : Bool :=
  i.wellFormedWith Config.admitAnnnBnnn

end Sys2Proof
end

