-- ==== Sys2Proof/Decode.lean ====
section
/-! DEFINITION. The decoder of 30_encoding.md R75, total on every word and on any bytes (R81), and the encoder written
from the same table (R74). -/

namespace Sys2Proof

/-- The family, `w[15:12]` (R72). -/
def fieldFamily (w : Word) : Nat := w.toNat / 4096

/-- `X`, `w[11:8]` (R72). -/
def fieldX (w : Word) : Reg := ⟨w.toNat / 256 % 16, Nat.mod_lt _ (by decide)⟩

/-- `Y`, `w[7:4]` (R72). -/
def fieldY (w : Word) : Reg := ⟨w.toNat / 16 % 16, Nat.mod_lt _ (by decide)⟩

/-- `N`, `w[3:0]` (R72). -/
def fieldN (w : Word) : Nibble := ⟨w.toNat % 16, Nat.mod_lt _ (by decide)⟩

/-- `NN`, `w[7:0]` (R72). -/
def fieldNN (w : Word) : Byte := BitVec.ofNat 8 w.toNat

/-- `NNN`, `w[11:0]` (R72). -/
def fieldNNN (w : Word) : Addr12 := BitVec.ofNat 12 w.toNat

/-- Family 0: the whole word discriminates (R75, R79). -/
def decodeFamily0 (w : Word) : Option Instr :=
  if w = 0x00E0#16 then some .cls
  else if w = 0x00EE#16 then some .ret
  else none

/-- Family 8: the low nibble discriminates (R75, R76). -/
def decodeFamily8 (w : Word) : Option Instr :=
  match (fieldN w).val with
  | 0x0 => some (.ldVxVy (fieldX w) (fieldY w))
  | 0x1 => some (.orVxVy (fieldX w) (fieldY w))
  | 0x2 => some (.andVxVy (fieldX w) (fieldY w))
  | 0x3 => some (.xorVxVy (fieldX w) (fieldY w))
  | 0x4 => some (.addVxVy (fieldX w) (fieldY w))
  | 0x5 => some (.subVxVy (fieldX w) (fieldY w))
  | 0x6 => some (.shrVx (fieldX w) (fieldY w))
  | 0x7 => some (.subnVxVy (fieldX w) (fieldY w))
  | 0xE => some (.shlVx (fieldX w) (fieldY w))
  | _ => none

/-- Family E: the low byte discriminates (R75). -/
def decodeFamilyE (w : Word) : Option Instr :=
  match (fieldNN w).toNat with
  | 0x9E => some (.skpVx (fieldX w))
  | 0xA1 => some (.sknpVx (fieldX w))
  | _ => none

/-- Family F: the low byte discriminates (R75). -/
def decodeFamilyF (w : Word) : Option Instr :=
  match (fieldNN w).toNat with
  | 0x07 => some (.ldVxDt (fieldX w))
  | 0x0A => some (.ldVxK (fieldX w))
  | 0x15 => some (.ldDtVx (fieldX w))
  | 0x18 => some (.ldStVx (fieldX w))
  | 0x1E => some (.addIVx (fieldX w))
  | 0x29 => some (.ldFVx (fieldX w))
  | 0x33 => some (.ldBVx (fieldX w))
  | 0x55 => some (.ldMemVx (fieldX w))
  | 0x65 => some (.ldVxMem (fieldX w))
  | _ => none

/-- The procedure of R75 at the value `admitAB` of `ADMIT_ANNN_BNNN` (R80); `none` is Unknown. -/
def decodeWordWith (admitAB : Bool) (w : Word) : Option Instr :=
  match fieldFamily w with
  | 0x0 => decodeFamily0 w
  | 0x1 => some (.jpNnn (fieldNNN w))
  | 0x2 => some (.callNnn (fieldNNN w))
  | 0x3 => some (.seVxNn (fieldX w) (fieldNN w))
  | 0x4 => some (.sneVxNn (fieldX w) (fieldNN w))
  | 0x5 => if (fieldN w).val = 0 then some (.seVxVy (fieldX w) (fieldY w)) else none
  | 0x6 => some (.ldVxNn (fieldX w) (fieldNN w))
  | 0x7 => some (.addVxNn (fieldX w) (fieldNN w))
  | 0x8 => decodeFamily8 w
  | 0x9 => if (fieldN w).val = 0 then some (.sneVxVy (fieldX w) (fieldY w)) else none
  | 0xA => if admitAB then some (.ldINnn (fieldNNN w)) else none
  | 0xB => if admitAB then some (.jpV0Nnn (fieldNNN w)) else none
  | 0xC => some (.rndVxNn (fieldX w) (fieldNN w))
  | 0xD => some (.drwVxVyN (fieldX w) (fieldY w) (fieldN w))
  | 0xE => decodeFamilyE w
  | 0xF => decodeFamilyF w
  | _ => none

/-- The decoder of this hardware: a word's instruction, or `none` for an unknown word (R75, R80, R93). -/
def decodeWord (w : Word) : Option Instr :=
  decodeWordWith Config.admitAnnnBnnn w

/-- Why the decoder gives no instruction. -/
inductive DecodeReject where
  /-- Fewer than the two bytes every instruction has (R70). -/
  | truncated
  /-- A word that matches no row (R80); it carries the raw word. -/
  | unknownOpcode (w : Word)
deriving DecidableEq, Repr

/-- What the decoder makes of a list of bytes: an instruction and the bytes after it, or a named rejection. -/
inductive Decoded where
  | instr (i : Instr) (rest : List Byte)
  | reject (r : DecodeReject)
deriving DecidableEq, Repr

/-- Two bytes as a word, the one at the lower address in the high bits (R50). -/
def wordOfBytes (hi lo : Byte) : Word :=
  BitVec.ofNat 16 (hi.toNat * 256 + lo.toNat)

/-- The byte of a word that stands at the lower address (R50). -/
def highByte (w : Word) : Byte := BitVec.ofNat 8 (w.toNat / 256)

/-- The byte of a word that stands at the higher address (R50). -/
def lowByte (w : Word) : Byte := BitVec.ofNat 8 w.toNat

/-- The decoder on bytes: every instruction is two bytes, big-endian (R50, R70). -/
def decode (bytes : List Byte) : Decoded :=
  match bytes with
  | hi :: lo :: rest =>
    match decodeWord (wordOfBytes hi lo) with
    | some i => .instr i rest
    | none => .reject (.unknownOpcode (wordOfBytes hi lo))
  | _ => .reject .truncated

/-- Format `A`: a family and an address (R71). -/
def wordA (family : Nat) (nnn : Addr12) : Word :=
  BitVec.ofNat 16 (family * 4096 + nnn.toNat)

/-- Format `I`: a family, a register and a byte (R71). -/
def wordI (family : Nat) (x : Reg) (nn : Byte) : Word :=
  BitVec.ofNat 16 (family * 4096 + x.val * 256 + nn.toNat)

/-- Format `R`: a family, two registers and a nibble (R71). -/
def wordR (family : Nat) (x y : Reg) (n : Nat) : Word :=
  BitVec.ofNat 16 (family * 4096 + x.val * 256 + y.val * 16 + n)

/-- Format `S`: a family, a register and a fixed low byte (R71). -/
def wordS (family : Nat) (x : Reg) (sub : Nat) : Word :=
  BitVec.ofNat 16 (family * 4096 + x.val * 256 + sub)

/-- The word of an instruction, by the table of R74. -/
def encode (i : Instr) : Word :=
  match i with
  | .cls => 0x00E0#16
  | .ret => 0x00EE#16
  | .jpNnn nnn => wordA 0x1 nnn
  | .callNnn nnn => wordA 0x2 nnn
  | .seVxNn x nn => wordI 0x3 x nn
  | .sneVxNn x nn => wordI 0x4 x nn
  | .seVxVy x y => wordR 0x5 x y 0x0
  | .ldVxNn x nn => wordI 0x6 x nn
  | .addVxNn x nn => wordI 0x7 x nn
  | .ldVxVy x y => wordR 0x8 x y 0x0
  | .orVxVy x y => wordR 0x8 x y 0x1
  | .andVxVy x y => wordR 0x8 x y 0x2
  | .xorVxVy x y => wordR 0x8 x y 0x3
  | .addVxVy x y => wordR 0x8 x y 0x4
  | .subVxVy x y => wordR 0x8 x y 0x5
  | .shrVx x y => wordR 0x8 x y 0x6
  | .subnVxVy x y => wordR 0x8 x y 0x7
  | .shlVx x y => wordR 0x8 x y 0xE
  | .sneVxVy x y => wordR 0x9 x y 0x0
  | .ldINnn nnn => wordA 0xA nnn
  | .jpV0Nnn nnn => wordA 0xB nnn
  | .rndVxNn x nn => wordI 0xC x nn
  | .drwVxVyN x y n => wordR 0xD x y n.val
  | .skpVx x => wordS 0xE x 0x9E
  | .sknpVx x => wordS 0xE x 0xA1
  | .ldVxDt x => wordS 0xF x 0x07
  | .ldVxK x => wordS 0xF x 0x0A
  | .ldDtVx x => wordS 0xF x 0x15
  | .ldStVx x => wordS 0xF x 0x18
  | .addIVx x => wordS 0xF x 0x1E
  | .ldFVx x => wordS 0xF x 0x29
  | .ldBVx x => wordS 0xF x 0x33
  | .ldMemVx x => wordS 0xF x 0x55
  | .ldVxMem x => wordS 0xF x 0x65

/-- The two bytes of an instruction as memory holds them (R50, R70). -/
def encodeBytes (i : Instr) : List Byte :=
  [highByte (encode i), lowByte (encode i)]

/-- The mask of the instruction's row in R74: the bits its pattern fixes. -/
def rowMask (i : Instr) : Word :=
  match i with
  | .cls | .ret => 0xFFFF#16
  | .jpNnn _ | .callNnn _ | .ldINnn _ | .jpV0Nnn _ => 0xF000#16
  | .seVxNn _ _ | .sneVxNn _ _ | .ldVxNn _ _ | .addVxNn _ _ | .rndVxNn _ _ => 0xF000#16
  | .drwVxVyN _ _ _ => 0xF000#16
  | .seVxVy _ _ | .sneVxVy _ _ => 0xF00F#16
  | .ldVxVy _ _ | .orVxVy _ _ | .andVxVy _ _ | .xorVxVy _ _ | .addVxVy _ _ => 0xF00F#16
  | .subVxVy _ _ | .shrVx _ _ | .subnVxVy _ _ | .shlVx _ _ => 0xF00F#16
  | .skpVx _ | .sknpVx _ => 0xF0FF#16
  | .ldVxDt _ | .ldVxK _ | .ldDtVx _ | .ldStVx _ | .addIVx _ => 0xF0FF#16
  | .ldFVx _ | .ldBVx _ | .ldMemVx _ | .ldVxMem _ => 0xF0FF#16

/-- The `match` column of the instruction's row in R74: the values of the fixed bits. -/
def rowMatch (i : Instr) : Word :=
  match i with
  | .cls => 0x00E0#16
  | .ret => 0x00EE#16
  | .jpNnn _ => 0x1000#16
  | .callNnn _ => 0x2000#16
  | .seVxNn _ _ => 0x3000#16
  | .sneVxNn _ _ => 0x4000#16
  | .seVxVy _ _ => 0x5000#16
  | .ldVxNn _ _ => 0x6000#16
  | .addVxNn _ _ => 0x7000#16
  | .ldVxVy _ _ => 0x8000#16
  | .orVxVy _ _ => 0x8001#16
  | .andVxVy _ _ => 0x8002#16
  | .xorVxVy _ _ => 0x8003#16
  | .addVxVy _ _ => 0x8004#16
  | .subVxVy _ _ => 0x8005#16
  | .shrVx _ _ => 0x8006#16
  | .subnVxVy _ _ => 0x8007#16
  | .shlVx _ _ => 0x800E#16
  | .sneVxVy _ _ => 0x9000#16
  | .ldINnn _ => 0xA000#16
  | .jpV0Nnn _ => 0xB000#16
  | .rndVxNn _ _ => 0xC000#16
  | .drwVxVyN _ _ _ => 0xD000#16
  | .skpVx _ => 0xE09E#16
  | .sknpVx _ => 0xE0A1#16
  | .ldVxDt _ => 0xF007#16
  | .ldVxK _ => 0xF00A#16
  | .ldDtVx _ => 0xF015#16
  | .ldStVx _ => 0xF018#16
  | .addIVx _ => 0xF01E#16
  | .ldFVx _ => 0xF029#16
  | .ldBVx _ => 0xF033#16
  | .ldMemVx _ => 0xF055#16
  | .ldVxMem _ => 0xF065#16

/-- The host's question about a row of spec/opcode_table.json: bits numbered as the table numbers them, laid out as
memory holds them (the word big-endian, R50) and given to the decoder. -/
def decodeTableWord (nbits w : Nat) : Option Instr :=
  let word : Word := BitVec.ofNat 16 (w % 2 ^ nbits)
  match decode [highByte word, lowByte word] with
  | .instr i _ => some i
  | .reject _ => none

end Sys2Proof
end

