-- ==== Sys2Proof/Machine/State.lean ====
section
/-! DEFINITION. The machine state (10_state.md R20 to R35), its value after reset (R37, R220), and the ways a step
could end other than in a next state. Plain data throughout. -/

namespace Sys2Proof.Machine

/-- The six named errors of R190. Those of a step are not stops: the step ends in a next state and reports the error
(R191 to R193, R195). -/
inductive MachineError where
  /-- An access above 0xFFF; it records the lowest such address of the access (R53, R190). -/
  | memoryOutOfBounds (addr : Nat)
  /-- A call with 16 addresses on the stack (R113, R190). -/
  | stackOverflow
  /-- A return on the empty stack (R111, R190). -/
  | stackUnderflow
  /-- A word that is no instruction; it records the raw word (R80, R190). -/
  | unknownOpcode (w : Word)
  /-- A ROM image longer than 3584 bytes (R181, R196). -/
  | romTooLarge
  /-- The host could not obtain the image (R197). -/
  | romUnreadable
deriving DecidableEq, Repr

/-- The spec's own numbering of the errors, labels only (R190, D1). -/
def errorCode (e : MachineError) : Nat :=
  match e with
  | .memoryOutOfBounds _ => 1
  | .stackOverflow => 2
  | .stackUnderflow => 3
  | .unknownOpcode _ => 4
  | .romTooLarge => 5
  | .romUnreadable => 6

/-- Main memory as data: the cells that differ from the reset contents, addresses rising (log 12). Its operations and
its well-formedness are in Machine/Memory.lean. -/
abbrev Memory := List Host.Cell

/-- The framebuffer: 32 rows, the top one first, of 64 cells, the left one first; true is on (R20, R33). -/
abbrev Framebuffer := Vector (Vector Bool 64) 32

/-- The aggregate machine state of R20, and the model's own last three fields (log 1, log 2). -/
@[ext]
structure State where
  /-- `V[0]` to `V[15]` (R21). -/
  v : Vector Byte 16
  /-- `I` (R28). -/
  i : Word
  /-- `PC` (R25, R26). -/
  pc : Word
  /-- `STACK[0]` to `STACK[15]` (R29). -/
  stack : Vector Word 16
  /-- `SP`, the depth, 0 to 16 (R29). -/
  sp : Fin 17
  /-- `MEM` (R32, R54). -/
  mem : Memory
  /-- `FB` (R33). -/
  fb : Framebuffer
  /-- `DT` (R30). -/
  dt : Byte
  /-- `ST` (R31). -/
  st : Byte
  /-- `KEY[0]` to `KEY[15]`, true is pressed (R34). -/
  key : Vector Bool 16
  /-- The draw-request flag (R24). -/
  drawReq : Bool
  /-- The beep-request flag (R24). -/
  beepReq : Bool
  /-- The model's own: the error the latest step reported, an output and not state of the hardware (R35, R98).
  DESIGN CHOICE, safe, log 1. -/
  err : Option MachineError
  /-- The model's own: the random byte given to the step in progress, an input (R7, R91). DESIGN CHOICE, safe,
  log 2. -/
  rnd : Byte
  /-- The model's own: how many random bytes `step` has taken. DESIGN CHOICE, safe, log 2. -/
  draws : Nat
deriving DecidableEq, Repr

/-- The faults of a step: there are none. The machine has no halt and every error is a next state (R7, R99, R191), so
nobody raises a fault and no constructor is needed. Safe. Log 11. -/
inductive Fault where
deriving DecidableEq, Repr

/-- Why a step could give an instruction no meaning. -/
inductive Refusal where
  /-- Raised by an arm of `exec` whose instruction has no meaning yet; every arm has one, so no step raises it. Safe:
  the machine would stop where the hardware goes on. -/
  | notModelled (mnemonic : String)
deriving DecidableEq, Repr

/-- The three outcomes of this machine. -/
abbrev Result := Host.Outcome State Fault Refusal

/-- The machine right after `reset()` (R37, R220). Memory with nothing listed reads as the font and zeros. The values
of `i`, `stack`, `fb`, `key`, `drawReq` and `beepReq` rest on the spec's decision D23 (log 3); those of `err`, `rnd`
and `draws` are the model's (log 1, log 2). -/
def State.reset : State where
  v := Vector.replicate 16 0
  i := 0
  pc := 0x200
  stack := Vector.replicate 16 0
  sp := 0
  mem := []
  fb := Vector.replicate 32 (Vector.replicate 64 false)
  dt := 0
  st := 0
  key := Vector.replicate 16 false
  drawReq := false
  beepReq := false
  err := none
  rnd := 0
  draws := 0

end Sys2Proof.Machine
end

