-- ==== Sys2Proof/Machine/Memory.lean ====
section
/-! DEFINITION. Main memory (20_memory.md): what an unlisted cell reads as, reading and writing one byte, runs of
bytes at rising addresses, and the canonical form. -/

namespace Sys2Proof.Machine

/-- What a cell that nothing has written reads as: the reset contents, the font table at `FONT_BASE` and zero
elsewhere (R37, R54, R56). Log 4. -/
def Memory.unlisted (a : Nat) : Byte :=
  if Config.fontBase ≤ a then Config.font.getD (a - Config.fontBase) 0 else 0

/-- The byte at an address (R50, R58). -/
def Memory.read (m : Memory) (a : Nat) : Byte :=
  match m with
  | [] => Memory.unlisted a
  | c :: rest => if c.1 = a then c.2 else Memory.read rest a

/-- Memory with no cell listed at `a`. -/
def Memory.erase (m : Memory) (a : Nat) : Memory :=
  m.filter fun c => c.1 != a

/-- Memory with the cell `a`, `b` put before the first cell of a higher address. -/
def Memory.insertCell (m : Memory) (a : Nat) (b : Byte) : Memory :=
  match m with
  | [] => [(a, b)]
  | c :: rest => if a < c.1 then (a, b) :: c :: rest else c :: Memory.insertCell rest a b

/-- A one-byte write: the addressed byte changes and no other (R52). A cell that takes its reset value is no longer
listed, so that equal memories are equal data (log 12). -/
def Memory.write (m : Memory) (a : Nat) (b : Byte) : Memory :=
  if b = Memory.unlisted a then Memory.erase m a
  else Memory.insertCell (Memory.erase m a) a b

/-- The bytes at `a`, `a + 1`, ... in ascending order (R50). -/
def Memory.readBytes (m : Memory) (a : Nat) : Nat → List Byte
  | 0 => []
  | n + 1 => Memory.read m a :: Memory.readBytes m (a + 1) n

/-- Writes the bytes to `a`, `a + 1`, ... in ascending order (R50). -/
def Memory.writeBytes (m : Memory) (a : Nat) (bytes : List Byte) : Memory :=
  match bytes with
  | [] => m
  | b :: bs => Memory.writeBytes (Memory.write m a b) (a + 1) bs

/-- The canonical form of the cells from address `lo` on: addresses strictly rising and below 4096, no cell at its
reset value. -/
def Memory.wfFrom (lo : Nat) (m : Memory) : Bool :=
  match m with
  | [] => true
  | c :: rest =>
    decide (lo ≤ c.1) && decide (c.1 < Config.memSize) && (c.2 != Memory.unlisted c.1) &&
      Memory.wfFrom (c.1 + 1) rest

/-- The canonical form of memory (log 12). -/
def Memory.wf (m : Memory) : Bool :=
  Memory.wfFrom 0 m

end Sys2Proof.Machine
end

