-- ==== Sys2Proof/Machine/Ops.lean ====
section
/-! DEFINITION. The named operations over the state: registers, program counter, the two primitives over memory
(00_scope.md R10), the call stack, framebuffer, keys, timers, and what `raise` does (60_exceptions.md). -/

namespace Sys2Proof.Machine

/-- `V[x]` (R21). -/
def State.getV (s : State) (x : Reg) : Byte := s.v[x]

/-- `V[x] <- b` (R21). -/
def State.setV (s : State) (x : Reg) (b : Byte) : State := { s with v := s.v.set x.val b }

/-- `I <- a` (R28). -/
def State.setI (s : State) (a : Word) : State := { s with i := a }

/-- `pc <- target`; no alignment and no range check (R26). -/
def State.setPc (s : State) (target : Word) : State := { s with pc := target }

/-- `MEM <- m`. -/
def State.setMem (s : State) (m : Memory) : State := { s with mem := m }

/-- `FB <- f`. -/
def State.setFb (s : State) (f : Framebuffer) : State := { s with fb := f }

/-- `DT <- b` (R30). -/
def State.setDt (s : State) (b : Byte) : State := { s with dt := b }

/-- `ST <- b` (R31). -/
def State.setSt (s : State) (b : Byte) : State := { s with st := b }

/-- `drawReq <- 1` (R24). -/
def State.requestDraw (s : State) : State := { s with drawReq := true }

/-- `pc <- PC + 2`, the advance of every instruction that does not alter control flow (R25, R94). The sum is taken in
16 bits; no fetched instruction reaches the wrap (R26, log 10). -/
def State.advance (s : State) : State := s.setPc (s.pc + 2#16)

/-- `pc <- PC + 4` when the condition holds, else `PC + 2` (R25, R110). -/
def State.skipIf (s : State) (c : Bool) : State :=
  if c then s.setPc (s.pc + 4#16) else s.advance

/-- The report of an error by the step in progress (R98, R191). -/
def State.report (s : State) (e : MachineError) : State := { s with err := some e }

/-- `raise` in the execute phase: the error is reported, `PC` advances by 2 and nothing else changes; there is no
vector, no saved state and no mode (R191, R193). -/
def State.raise (s : State) (e : MachineError) : State := (s.report e).advance

/-- `raise` in the fetch phase: the error is reported and `PC` stays (R191, R192). -/
def State.raiseFetch (s : State) (e : MachineError) : State := s.report e

/-- `raise UnknownOpcode(w)` (R80, R193): `PC` advances unless `UNKNOWN_ADVANCES_PC` is false (log 6). -/
def State.raiseUnknown (s : State) (w : Word) : State :=
  if Config.unknownAdvancesPc then s.raise (.unknownOpcode w) else s.report (.unknownOpcode w)

/-- The bounds check that comes before every access of an instruction (R53): the error of an access of `n` bytes from
`base` when its last byte would lie above 0xFFF, and none otherwise. `base` is not reduced. -/
def accessError (base n : Nat) : Option MachineError :=
  if 0 < n ∧ Config.memSize < base + n then some (.memoryOutOfBounds (max base Config.memSize)) else none

/-- `MemRead(addr, 1)` (R10). -/
def State.memRead (s : State) (addr : Nat) : Except MachineError Byte :=
  match accessError addr 1 with
  | some e => .error e
  | none => .ok (s.mem.read addr)

/-- `MemRead(addr, 2)`, big-endian (R10, R50). -/
def State.memRead16 (s : State) (addr : Nat) : Except MachineError Word :=
  match accessError addr 2 with
  | some e => .error e
  | none => .ok (BitVec.ofNat 16 ((s.mem.read addr).toNat * 256 + (s.mem.read (addr + 1)).toNat))

/-- `MemWrite(I + k, 1, bytes[k])` for each `k`, after the check of R53 for all of them: all or nothing. -/
def State.storeBytes (s : State) (base : Nat) (bytes : List Byte) : Except MachineError State :=
  match accessError base bytes.length with
  | some e => .error e
  | none => .ok (s.setMem (s.mem.writeBytes base bytes))

/-- The `n` bytes from `base`, after the check of R53 for all of them. -/
def State.loadBytes (s : State) (base n : Nat) : Except MachineError (List Byte) :=
  match accessError base n with
  | some e => .error e
  | none => .ok (s.mem.readBytes base n)

/-- `V[k] <- bytes[k]` for each `k` that the list reaches; the other registers keep their values (R176). -/
def State.setLowV (s : State) (bytes : List Byte) : State :=
  { s with v := Vector.ofFn fun k : Fin 16 => bytes.getD k.val s.v[k] }

/-- Push a return address: `STACK[SP] <- a`, `SP <- SP + 1`; none when 16 addresses are on the stack (R29, R113). -/
def State.push (s : State) (a : Word) : Option State :=
  if h : s.sp.val < 16 then
    some { s with stack := s.stack.set s.sp.val a, sp := ⟨s.sp.val + 1, by omega⟩ }
  else none

/-- Pop into `PC`: `SP <- SP - 1`, `pc <- STACK[SP]`; none when the stack is empty. The slot keeps its value (R29,
R111). -/
def State.popPc (s : State) : Option State :=
  if h : 0 < s.sp.val then
    some { s with
      sp := ⟨s.sp.val - 1, by have := s.sp.isLt; omega⟩
      pc := s.stack[s.sp.val - 1]'(by have := s.sp.isLt; omega) }
  else none

/-- The cell at column `x` and row `y`, reduced modulo 64 and 32 (R32, R33). -/
def Framebuffer.cell (f : Framebuffer) (x y : Nat) : Bool :=
  (f[y % 32]'(Nat.mod_lt _ (by decide)))[x % 64]'(Nat.mod_lt _ (by decide))

/-- The framebuffer with the cell at column `x` and row `y`, reduced modulo 64 and 32, inverted (R33, R152). -/
def Framebuffer.flip (f : Framebuffer) (x y : Nat) : Framebuffer :=
  f.set (y % 32)
    ((f[y % 32]'(Nat.mod_lt _ (by decide))).set (x % 64) (!f.cell x y) (Nat.mod_lt _ (by decide)))
    (Nat.mod_lt _ (by decide))

/-- All 2048 cells off (R151). -/
def Framebuffer.blank : Framebuffer := Vector.replicate 32 (Vector.replicate 64 false)

/-- A framebuffer being drawn on, and whether the draw has so far turned a cell off (R152). -/
structure Canvas where
  fb : Framebuffer
  hit : Bool
deriving DecidableEq, Repr

/-- One set sprite bit at column `x`, row `y`: a collision when the cell was on, and the cell inverted (R152). -/
def Canvas.plot (c : Canvas) (x y : Nat) : Canvas :=
  { fb := c.fb.flip x y, hit := c.hit || c.fb.cell x y }

/-- One sprite row: bit 7 of `b` is column 0; a bit of 0 leaves its cell alone (R150, R152). -/
def Canvas.drawRow (c : Canvas) (x0 y : Nat) (b : Byte) : Canvas :=
  (List.range 8).foldl (fun acc col => if b.getLsbD (7 - col) then acc.plot (x0 + col) y else acc) c

/-- The sprite rows, downward from `y` (R150, R152). -/
def Canvas.drawRows (c : Canvas) (x0 y : Nat) (rows : List Byte) : Canvas :=
  match rows with
  | [] => c
  | b :: bs => Canvas.drawRows (c.drawRow x0 y b) x0 (y + 1) bs

/-- Is key `k` pressed (R34)? -/
def State.keyDown (s : State) (k : Fin 16) : Bool := s.key[k]

/-- `pick(KEY)`: the lowest pressed index, none when no key is pressed (R163). `KEYPICK` is OPEN, log 9. -/
def State.pickKey (s : State) : Option (Fin 16) :=
  (List.finRange 16).find? fun k => s.keyDown k

/-- A timer's countdown: minus 1 while nonzero, stopping at 0 (R30, R31). -/
def countDown (t : Byte) : Byte := if t = 0 then t else t - 1

/-- Phase 4, the timer update: both timers count down, and the beep is requested when `ST` goes from 1 to 0 (R96). -/
def State.tick (s : State) : State :=
  { s with
    dt := countDown s.dt
    st := countDown s.st
    beepReq := s.beepReq || decide (s.st = 1) }

end Sys2Proof.Machine
end

