-- ==== Sys2Proof/Machine/Operands.lean ====
section
/-! DEFINITION. The operand forms (30_encoding.md R72, R73; 45_index_memory.md R170): registers, immediates used as
they stand, the address `I + k`, the low nibble as an index, the glyph address, decimal digits, the register run. -/

namespace Sys2Proof.Machine

/-- `NNN` zero-extended to 16 bits (R73). -/
def addrOperand (nnn : Addr12) : Word := BitVec.ofNat 16 nnn.toNat

/-- `NNN + V[0]`, a natural sum of at most 0x10FE, not reduced to 12 bits (R118). -/
def offsetTarget (s : State) (nnn : Addr12) : Word :=
  BitVec.ofNat 16 (nnn.toNat + (s.getV 0).toNat)

/-- The base of a data access: `I` as a natural number, never reduced (R53, R170). -/
def baseOperand (s : State) : Nat := s.i.toNat

/-- The low four bits of a register value, which select a key (R160) or a digit (R173). -/
def lowNibble (b : Byte) : Fin 16 := ⟨b.toNat % 16, Nat.mod_lt _ (by decide)⟩

/-- The address of the glyph of the digit in the low nibble: `FONT_BASE + 5 * d` (R173). -/
def glyphAddress (b : Byte) : Word :=
  BitVec.ofNat 16 (Config.fontBase + 5 * (lowNibble b).val)

/-- The three decimal digits, hundreds first, one byte each (R174). -/
def bcdDigits (b : Byte) : List Byte :=
  [BitVec.ofNat 8 (b.toNat / 100), BitVec.ofNat 8 (b.toNat / 10 % 10), BitVec.ofNat 8 (b.toNat % 10)]

/-- `V[0]` to `V[x]` in ascending order (R175): `x` is the field itself, a count. -/
def lowRegisters (s : State) (x : Reg) : List Byte :=
  s.v.toList.take (x.val + 1)

/-- The operand of 8XY6 and 8XYE, by `SHIFT_SOURCE` (R140, R142, log 8). -/
def shiftOperand (s : State) (x y : Reg) : Byte :=
  match Config.shiftSource with
  | .vx => s.getV x
  | .vy => s.getV y

/-- `I` after FX55 and FX65, by `MEMOP_ADVANCES_I` (R175, R176, log 7). -/
def indexAfterTransfer (s : State) (x : Reg) : Word :=
  if Config.memopAdvancesI then BitVec.ofNat 16 (s.i.toNat + x.val + 1) else s.i

end Sys2Proof.Machine
end

