-- ==== Sys2Proof/Machine/Flags.lean ====
section
/-! DEFINITION. The results and flags of the arithmetic instructions (42_register_alu.md R130, R131, R144; the table
of 10_state.md R23), and the order in which result and flag are written. -/

namespace Sys2Proof.Machine

/-- A flag as the value of VF: 1 or 0 and never any other (R23). -/
def flagByte (f : Bool) : Byte := if f then 1 else 0

/-- The 8-bit sum (R133, R138). -/
def sumByte (a b : Byte) : Byte := BitVec.ofNat 8 (a.toNat + b.toNat)

/-- The carry out of an 8-bit sum (R138). -/
def carryOut (a b : Byte) : Bool := decide (255 < a.toNat + b.toNat)

/-- The 8-bit difference `a - b` (R139, R141). -/
def differenceByte (a b : Byte) : Byte := BitVec.ofNat 8 (a.toNat + 256 - b.toNat)

/-- No borrow in `a - b` (R139, R141). -/
def noBorrow (a b : Byte) : Bool := decide (b.toNat ≤ a.toNat)

/-- A logical shift right by one (R140). -/
def halfByte (a : Byte) : Byte := BitVec.ofNat 8 (a.toNat / 2)

/-- The bit that a shift right drops (R140). -/
def lowBit (a : Byte) : Bool := a.getLsbD 0

/-- A shift left by one in 8 bits (R142). -/
def doubleByte (a : Byte) : Byte := BitVec.ofNat 8 (a.toNat * 2)

/-- The bit that a shift left drops (R142). -/
def highBit (a : Byte) : Bool := a.getLsbD 7

/-- `I + V[X]` in 16 bits (R172). -/
def indexSum (a : Word) (b : Byte) : Word := BitVec.ofNat 16 (a.toNat + b.toNat)

/-- Does the unreduced sum `I + V[X]` exceed 0xFFF (R172)? -/
def indexOverflow (a : Word) (b : Byte) : Bool := decide (0xFFF < a.toNat + b.toNat)

/-- `V[15] <- 1 if f else 0` (R23). -/
def State.setFlag (s : State) (f : Bool) : State := s.setV regVF (flagByte f)

/-- The result to `V[x]`, then the flag to VF, so that with `x = 15` the flag remains (R131, D13). -/
def State.setResultAndFlag (s : State) (x : Reg) (result : Byte) (f : Bool) : State :=
  (s.setV x result).setFlag f

end Sys2Proof.Machine
end

