-- ==== Sys2Proof/Machine/ControlFlow.lean ====
section
/-! DEFINITION. Control transfer (41_control_flow.md R110 to R118). No target is checked when `PC` is written (R110)
and none of these writes VF. -/

namespace Sys2Proof.Machine

/-- `00EE`, R111. On the empty stack: `StackUnderflow`, and the instruction has no other effect (R193). -/
def execRet (s : State) : Result :=
  match s.popPc with
  | some t => .next t
  | none => .next (s.raise .stackUnderflow)

/-- `1NNN`, R112. -/
def execJpNnn (nnn : Addr12) (s : State) : Result :=
  .next (s.setPc (addrOperand nnn))

/-- `2NNN`, R113: the address pushed is `PC + 2` (D10). On the full stack: `StackOverflow`, and the instruction has no
other effect (R193). -/
def execCallNnn (nnn : Addr12) (s : State) : Result :=
  match s.push (s.pc + 2#16) with
  | some t => .next (t.setPc (addrOperand nnn))
  | none => .next (s.raise .stackOverflow)

/-- `3XNN`, R114. -/
def execSeVxNn (x : Reg) (nn : Byte) (s : State) : Result :=
  .next (s.skipIf (decide (s.getV x = nn)))

/-- `4XNN`, R115. -/
def execSneVxNn (x : Reg) (nn : Byte) (s : State) : Result :=
  .next (s.skipIf (decide (s.getV x ≠ nn)))

/-- `5XY0`, R116. -/
def execSeVxVy (x y : Reg) (s : State) : Result :=
  .next (s.skipIf (decide (s.getV x = s.getV y)))

/-- `9XY0`, R117. -/
def execSneVxVy (x y : Reg) (s : State) : Result :=
  .next (s.skipIf (decide (s.getV x ≠ s.getV y)))

/-- `BNNN`, R118: the register is always `V[0]`. -/
def execJpV0Nnn (nnn : Addr12) (s : State) : Result :=
  .next (s.setPc (offsetTarget s nnn))

end Sys2Proof.Machine
end

