-- ==== Sys2Proof/Machine/Display.lean ====
section
/-! DEFINITION. Display instructions (43_display.md R150 to R152). -/

namespace Sys2Proof.Machine

/-- `00E0`, R151: the flag is set whether or not a cell was on. -/
def execCls (s : State) : Result :=
  .next (s.setFb Framebuffer.blank).requestDraw.advance

/-- What DXYN leaves when its sprite bytes are readable: the cells inverted, VF the collision, `drawReq` set (R152). -/
def drawSprite (s : State) (x y : Reg) (rows : List Byte) : State :=
  let c := Canvas.drawRows ⟨s.fb, false⟩ (s.getV x).toNat (s.getV y).toNat rows
  ((s.setFb c.fb).setFlag c.hit).requestDraw.advance

/-- `DXYN`, R152: the bounds check of all `N` bytes comes first; with `N = 0` no byte is read and none can fail. -/
def execDrwVxVyN (x y : Reg) (n : Nibble) (s : State) : Result :=
  match s.loadBytes (baseOperand s) n.val with
  | .ok rows => .next (drawSprite s x y rows)
  | .error e => .next (s.raise e)

end Sys2Proof.Machine
end

