-- ==== Sys2Proof/Machine/IndexMemory.lean ====
section
/-! DEFINITION. Index register and memory instructions (45_index_memory.md R170 to R176). The bounds check of all bytes
comes before any access, and an instruction that fails it has no effect but the report and `PC + 2` (R53, R193). -/

namespace Sys2Proof.Machine

/-- `ANNN`, R171. -/
def execLdINnn (nnn : Addr12) (s : State) : Result :=
  .next (s.setI (addrOperand nnn)).advance

/-- `FX1E`, R172: the sum and the flag are of the old `I` and the old `V[X]`. -/
def execAddIVx (x : Reg) (s : State) : Result :=
  .next ((s.setI (indexSum s.i (s.getV x))).setFlag (indexOverflow s.i (s.getV x))).advance

/-- `FX29`, R173: no memory is read. -/
def execLdFVx (x : Reg) (s : State) : Result :=
  .next (s.setI (glyphAddress (s.getV x))).advance

/-- `FX33`, R174. -/
def execLdBVx (x : Reg) (s : State) : Result :=
  match s.storeBytes (baseOperand s) (bcdDigits (s.getV x)) with
  | .ok t => .next t.advance
  | .error e => .next (s.raise e)

/-- `FX55`, R175. -/
def execLdMemVx (x : Reg) (s : State) : Result :=
  match s.storeBytes (baseOperand s) (lowRegisters s x) with
  | .ok t => .next (t.setI (indexAfterTransfer s x)).advance
  | .error e => .next (s.raise e)

/-- `FX65`, R176. -/
def execLdVxMem (x : Reg) (s : State) : Result :=
  match s.loadBytes (baseOperand s) (x.val + 1) with
  | .ok bytes => .next ((s.setLowV bytes).setI (indexAfterTransfer s x)).advance
  | .error e => .next (s.raise e)

end Sys2Proof.Machine
end

