-- ==== Sys2Proof/Machine/KeysTimers.lean ====
section
/-! DEFINITION. Key and timer instructions (44_keys_timers.md R160 to R167). None raises an error and none writes a
flag; the countdown of the timers is phase 4 of the step (R96) and not part of these. -/

namespace Sys2Proof.Machine

/-- `EX9E`, R161: the key is the low nibble of `V[X]` (R160). -/
def execSkpVx (x : Reg) (s : State) : Result :=
  .next (s.skipIf (s.keyDown (lowNibble (s.getV x))))

/-- `EXA1`, R162. -/
def execSknpVx (x : Reg) (s : State) : Result :=
  .next (s.skipIf (!s.keyDown (lowNibble (s.getV x))))

/-- `FX07`, R165: `DT` as the previous step left it. -/
def execLdVxDt (x : Reg) (s : State) : Result :=
  .next (s.setV x s.dt).advance

/-- `FX0A`, R164: with no key pressed nothing changes and `PC` is not written, so that the next step fetches the same
instruction again; else the lowest pressed key's index (R163). -/
def execLdVxK (x : Reg) (s : State) : Result :=
  match s.pickKey with
  | some k => .next (s.setV x (BitVec.ofNat 8 k.val)).advance
  | none => .next s

/-- `FX15`, R166. -/
def execLdDtVx (x : Reg) (s : State) : Result :=
  .next (s.setDt (s.getV x)).advance

/-- `FX18`, R167. -/
def execLdStVx (x : Reg) (s : State) : Result :=
  .next (s.setSt (s.getV x)).advance

end Sys2Proof.Machine
end

