-- ==== Sys2Proof/Machine/RegisterAlu.lean ====
section
/-! DEFINITION. Register and arithmetic instructions (42_register_alu.md R130 to R144). Operands are read from the
state at the start, then `V[X]` is written, then VF (R131). None can raise an error and all end with `PC + 2`. -/

namespace Sys2Proof.Machine

/-- `6XNN`, R132. -/
def execLdVxNn (x : Reg) (nn : Byte) (s : State) : Result :=
  .next (s.setV x nn).advance

/-- `7XNN`, R133: no flag. -/
def execAddVxNn (x : Reg) (nn : Byte) (s : State) : Result :=
  .next (s.setV x (sumByte (s.getV x) nn)).advance

/-- `8XY0`, R134: no flag (D14). -/
def execLdVxVy (x y : Reg) (s : State) : Result :=
  .next (s.setV x (s.getV y)).advance

/-- `8XY1`, R135: no flag (D14). -/
def execOrVxVy (x y : Reg) (s : State) : Result :=
  .next (s.setV x (s.getV x ||| s.getV y)).advance

/-- `8XY2`, R136: no flag (D14). -/
def execAndVxVy (x y : Reg) (s : State) : Result :=
  .next (s.setV x (s.getV x &&& s.getV y)).advance

/-- `8XY3`, R137: no flag (D14). -/
def execXorVxVy (x y : Reg) (s : State) : Result :=
  .next (s.setV x (s.getV x ^^^ s.getV y)).advance

/-- `8XY4`, R138: VF is the carry out. -/
def execAddVxVy (x y : Reg) (s : State) : Result :=
  .next (s.setResultAndFlag x (sumByte (s.getV x) (s.getV y)) (carryOut (s.getV x) (s.getV y))).advance

/-- `8XY5`, R139: VF is the complement of the borrow of `V[X] - V[Y]`. -/
def execSubVxVy (x y : Reg) (s : State) : Result :=
  .next (s.setResultAndFlag x (differenceByte (s.getV x) (s.getV y)) (noBorrow (s.getV x) (s.getV y))).advance

/-- `8XY6`, R140: VF is the bit shifted out. -/
def execShrVx (x y : Reg) (s : State) : Result :=
  .next (s.setResultAndFlag x (halfByte (shiftOperand s x y)) (lowBit (shiftOperand s x y))).advance

/-- `8XY7`, R141: VF is the complement of the borrow of `V[Y] - V[X]`. -/
def execSubnVxVy (x y : Reg) (s : State) : Result :=
  .next (s.setResultAndFlag x (differenceByte (s.getV y) (s.getV x)) (noBorrow (s.getV y) (s.getV x))).advance

/-- `8XYE`, R142: VF is the bit shifted out. -/
def execShlVx (x y : Reg) (s : State) : Result :=
  .next (s.setResultAndFlag x (doubleByte (shiftOperand s x y)) (highBit (shiftOperand s x y))).advance

/-- `CXNN`, R143: the random byte is the one supplied with this step (R91). -/
def execRndVxNn (x : Reg) (nn : Byte) (s : State) : Result :=
  .next (s.setV x (s.rnd &&& nn)).advance

end Sys2Proof.Machine
end

