-- ==== Sys2Proof/Machine/Cycle.lean ====
section
/-! DEFINITION. One call of `step(rnd)`: fetch, decode, execute, timer update (40_step_cycle.md R90 to R98). -/

namespace Sys2Proof.Machine

/-- Phase 1, the fetch: two bytes at `PC`, big-endian, at any address up to 0xFFE (R92). -/
def fetch (s : State) : Except MachineError Word :=
  s.memRead16 s.pc.toNat

/-- The state a step works on: the random byte of the call is there to read, and no error is reported yet (R90,
R91, R98). -/
def State.beginCycle (s : State) (rnd : Byte) : State :=
  { s with rnd := rnd, err := none }

/-- Phase 4 after phase 3 (R90): the timer update of whatever state the execute phase leaves. -/
def thenTick (r : Result) : Result :=
  match r with
  | .next t => .next t.tick
  | .fault f => .fault f
  | .refused q => .refused q

/-- Phases 2 and 3 for a fetched word: the instruction's meaning, or the report of an unknown word (R93, R94). -/
def decodeAndExecute (w : Word) (s : State) : Result :=
  match decodeWord w with
  | some i => exec i s
  | none => .next (s.raiseUnknown w)

/-- `step(rnd)` of R90. A fetch error skips phases 2 and 3 (R192); phase 4 runs in every case (R96, D9). The error of
the call, or none, is in `err` of the next state (R7, R98). -/
def cycle (rnd : Byte) (s : State) : Result :=
  match fetch (s.beginCycle rnd) with
  | .ok w => thenTick (decodeAndExecute w (s.beginCycle rnd))
  | .error e => thenTick (.next ((s.beginCycle rnd).raiseFetch e))

/-- The random byte of the next step is taken: the counter of the free value moves on (log 2). -/
def State.takeDraw (s : State) : State := { s with draws := s.draws + 1 }

/-- A step whose random byte is the free value `Config.randomByte` (R143, R186, D27). -/
def freeCycle (s : State) : Result :=
  cycle (Config.randomByte s.draws) s.takeDraw

/-- The state with an instruction's word stored, big-endian, where the next fetch reads it. When `PC` is above 0xFFE
nothing can be fetched, and `PC` is first put on the entry point 0x200 (R92, log 14). -/
def placeWord (s : State) (word : Word) : State :=
  let t := if s.pc.toNat + 1 < Config.memSize then s else s.setPc (BitVec.ofNat 16 Config.progBase)
  t.setMem (t.mem.writeBytes t.pc.toNat [highByte word, lowByte word])

end Sys2Proof.Machine
end

