-- ==== Sys2Proof/Machine/Step.lean ====
section
/-! DEFINITION. The step of the machine and the placing of an instruction where the step fetches it. -/

namespace Sys2Proof.Machine

/-- One step: one whole cycle of R90 with a random byte that nothing constrains (R7, R143). -/
def step (s : State) : Host.Outcome State Fault Refusal :=
  freeCycle s

/-- The state with the instruction whose bits are `w`, numbered as spec/opcode_table.json numbers them, stored where
`step` fetches next (log 14). -/
def State.withFetchWord (s : State) (nbits w : Nat) : State :=
  placeWord s (BitVec.ofNat 16 (w % 2 ^ nbits))

end Sys2Proof.Machine
end

