-- ==== Sys2Proof/Machine/HostInterface.lean ====
section
/-! DEFINITION. The host's operations other than the pipeline's `step` (46_host_interface.md R180 to R188;
70_reset_and_hazards.md R220 to R224). Each takes place between two steps (R6). -/

namespace Sys2Proof.Machine

/-- `reset()`: every component to its reset value, whatever the state before (R220). The counter of random bytes is
the random source's and not the hardware's (R186), so it goes on (log 2). -/
def hostReset (s : State) : State :=
  { State.reset with draws := s.draws }

/-- `load(image)`: the image to 0x200 and up, or `RomTooLarge` with the state unchanged; no other component is touched
and no reset is implied (R181, R196, R222). -/
def load (image : List Byte) (s : State) : Except MachineError State :=
  if Config.progSpace < image.length then .error .romTooLarge
  else .ok (s.setMem (s.mem.writeBytes Config.progBase image))

/-- The host's loading from a source that may not be readable: `RomUnreadable` comes before the core receives
anything (R197, log 17). -/
def loadFrom (source : Option (List Byte)) (s : State) : Except MachineError State :=
  match source with
  | some image => load image s
  | none => .error .romUnreadable

/-- `setKey(k, pressed)` (R182). -/
def setKey (k : Fin 16) (pressed : Bool) (s : State) : State :=
  { s with key := s.key.set k.val pressed }

/-- `clearDrawRequest()` (R183). -/
def clearDrawRequest (s : State) : State := { s with drawReq := false }

/-- `clearBeepRequest()` (R184). -/
def clearBeepRequest (s : State) : State := { s with beepReq := false }

/-- What the host can read: the framebuffer, the two request flags, and the error of the latest step (R185, R98). -/
structure HostView where
  fb : Framebuffer
  drawReq : Bool
  beepReq : Bool
  err : Option MachineError
deriving DecidableEq, Repr

/-- Reading has no effect on the state (R185). -/
def hostView (s : State) : HostView :=
  { fb := s.fb, drawReq := s.drawReq, beepReq := s.beepReq, err := s.err }

/-- The host's moves that change the state (R180). A key index is one of 16, so a call outside 0..15 cannot be made
(R182, U26, log 15). -/
inductive HostMove where
  | reset
  | load (image : List Byte)
  | setKey (k : Fin 16) (pressed : Bool)
  | clearDrawRequest
  | clearBeepRequest
  | step (rnd : Byte)
deriving DecidableEq, Repr

/-- One move of the host. A load that fails leaves the state unchanged (R181, R196). -/
def hostMove (m : HostMove) (s : State) : Result :=
  match m with
  | .reset => .next (hostReset s)
  | .load image =>
    match load image s with
    | .ok t => .next t
    | .error _ => .next s
  | .setKey k pressed => .next (setKey k pressed s)
  | .clearDrawRequest => .next (clearDrawRequest s)
  | .clearBeepRequest => .next (clearBeepRequest s)
  | .step rnd => cycle rnd s

/-- A run: the host's moves in order (R6). -/
def hostRun (ms : List HostMove) (s : State) : Result :=
  match ms with
  | [] => .next s
  | m :: rest =>
    match hostMove m s with
    | .next t => hostRun rest t
    | .fault f => .fault f
    | .refused q => .refused q

end Sys2Proof.Machine
end

