-- ==== Sys2Proof/Safety.lean ====
section
/-! DEFINITION. The terms in which statements speak of a run: what stays unchanged, which instruction a step executes,
what a sprite covers, the invariants, and a run without errors. -/

namespace Sys2Proof.Machine

/-- The components of the state (R20) and the model's own fields, as names. -/
inductive Part where
  | v | i | pc | stack | mem | fb | dt | st | key | drawReq | beepReq | err | rnd | draws
deriving DecidableEq, Repr

/-- Two states agree on a component. The stack is its slots and its depth (R29); memory is what every address reads
as. -/
def AgreeOn (p : Part) (s t : State) : Prop :=
  match p with
  | .v => t.v = s.v
  | .i => t.i = s.i
  | .pc => t.pc = s.pc
  | .stack => t.stack = s.stack ∧ t.sp = s.sp
  | .mem => ∀ a, t.mem.read a = s.mem.read a
  | .fb => t.fb = s.fb
  | .dt => t.dt = s.dt
  | .st => t.st = s.st
  | .key => t.key = s.key
  | .drawReq => t.drawReq = s.drawReq
  | .beepReq => t.beepReq = s.beepReq
  | .err => t.err = s.err
  | .rnd => t.rnd = s.rnd
  | .draws => t.draws = s.draws

/-- Every component not named in the list is as before: the frame of an instruction (R94). -/
def UnchangedBut (ps : List Part) (s t : State) : Prop :=
  ∀ p, p ∉ ps → AgreeOn p s t

/-- Every general register not named in the list is as before. -/
def RegistersUnchangedBut (rs : List Reg) (s t : State) : Prop :=
  ∀ r, r ∉ rs → t.getV r = s.getV r

/-- Every byte of memory outside the `n` bytes from `a` reads as before (R52). -/
def MemoryUnchangedOutside (a n : Nat) (s t : State) : Prop :=
  ∀ k, (k < a ∨ a + n ≤ k) → t.mem.read k = s.mem.read k

/-- The instruction that a step at `s` executes: none when the fetch fails or the word is unknown (R92, R93). -/
def fetchedInstr (s : State) : Option Instr :=
  match fetch s with
  | .ok w => decodeWord w
  | .error _ => none

/-- The state on which the step at `s` executes: its random byte taken, no error reported yet (R90, R91). -/
def State.stepStart (s : State) : State :=
  s.takeDraw.beginCycle (Config.randomByte s.draws)

/-- The general registers an instruction writes, flags included (the table of R22). -/
def writtenRegisters (i : Instr) : List Reg :=
  match i with
  | .ldVxNn x _ | .addVxNn x _ | .rndVxNn x _ => [x]
  | .ldVxVy x _ | .orVxVy x _ | .andVxVy x _ | .xorVxVy x _ => [x]
  | .addVxVy x _ | .subVxVy x _ | .shrVx x _ | .subnVxVy x _ | .shlVx x _ => [x, regVF]
  | .ldVxDt x | .ldVxK x => [x]
  | .drwVxVyN _ _ _ | .addIVx _ => [regVF]
  | .ldVxMem x => (List.finRange 16).filter fun r => r.val ≤ x.val
  | .cls | .ret | .jpNnn _ | .callNnn _ | .jpV0Nnn _ | .ldINnn _ => []
  | .seVxNn _ _ | .sneVxNn _ _ | .seVxVy _ _ | .sneVxVy _ _ => []
  | .skpVx _ | .sknpVx _ | .ldDtVx _ | .ldStVx _ | .ldFVx _ | .ldBVx _ | .ldMemVx _ => []

/-- The instructions that can report an error when executed (R190). -/
def canReport (i : Instr) : Bool :=
  match i with
  | .ret | .callNnn _ | .drwVxVyN _ _ _ | .ldBVx _ | .ldMemVx _ | .ldVxMem _ => true
  | .cls | .jpNnn _ | .seVxNn _ _ | .sneVxNn _ _ | .seVxVy _ _ | .ldVxNn _ _ | .addVxNn _ _ => false
  | .ldVxVy _ _ | .orVxVy _ _ | .andVxVy _ _ | .xorVxVy _ _ | .addVxVy _ _ | .subVxVy _ _ => false
  | .shrVx _ _ | .subnVxVy _ _ | .shlVx _ _ | .sneVxVy _ _ | .ldINnn _ | .jpV0Nnn _ => false
  | .rndVxNn _ _ | .skpVx _ | .sknpVx _ | .ldVxDt _ | .ldVxK _ | .ldDtVx _ | .ldStVx _ => false
  | .addIVx _ | .ldFVx _ => false

/-- Does a sprite of `n` rows at `I`, placed at column `x0` and row `y0`, have a set bit on the cell at column `x` and
row `y` (R150)? The cell is column `c` and row `r` of the sprite where `x = x0 + c mod 64` and `y = y0 + r mod 32`. -/
def spriteCovers (s : State) (x0 y0 n x y : Nat) : Bool :=
  let c := (x + 64 - x0 % 64) % 64
  let r := (y + 32 - y0 % 32) % 32
  decide (c < 8) && decide (r < n) && (s.mem.read (s.i.toNat + r)).getLsbD (7 - c)

/-- Some cell that is on is covered by the sprite: a collision (R152). -/
def spriteHits (s : State) (x0 y0 n : Nat) : Prop :=
  ∃ x y, x < 64 ∧ y < 32 ∧ s.fb.cell x y = true ∧ spriteCovers s x0 y0 n x y = true

/-- Invariant: memory has its canonical form (log 12). -/
def MemoryCanonical (s : State) : Prop := s.mem.wf = true

/-- Invariant: `PC` is at most 0x10FE, the largest value it can ever hold (R26), and every stack slot at most 0x1000,
the largest return address a fetched call can push (R113). -/
def PcInRange (s : State) : Prop :=
  s.pc.toNat ≤ 0x10FE ∧ ∀ k : Fin 16, s.stack[k].toNat ≤ 0x1000

/-- An instruction executed `n` times in a row, as long as each answers a next state. -/
def execRepeat (i : Instr) : Nat → State → Result
  | 0, s => .next s
  | n + 1, s =>
    match exec i s with
    | .next t => execRepeat i n t
    | .fault f => .fault f
    | .refused q => .refused q

/-- `n` steps in a row with no move of the host between them. -/
def stepRepeat : Nat → State → Result
  | 0, s => .next s
  | n + 1, s =>
    match step s with
    | .next t => stepRepeat n t
    | .fault f => .fault f
    | .refused q => .refused q

/-- A run of `n` steps in which no step reports an error. The hardware keeps no such record (R35, R195), so a claim
that counts an error as a fault of the run says it with this. -/
def CleanRun : Nat → State → Prop
  | 0, _ => True
  | n + 1, s => ∃ t, step s = .next t ∧ t.err = none ∧ CleanRun n t

end Sys2Proof.Machine
end

