-- ==== Sys2Proof/Certificates/Slice0/Obligations.lean ====
section
/-! DEFINITION. The statements for the provers. Each docstring names the rule of spec/ it formalises; where a clause
rests on a decision of the spec (D, followed as log 13 says) or on general knowledge (G), the docstring says so. The
model's own choices throughout: a step's error is read from the field `err` (log 1), its random byte from `rnd` and
`draws` (log 2), and `exec` is phase 3 alone (log 18). A statement over all instructions takes in ANNN and BNNN, admitted
by D2 (log 5); that an address is valid exactly up to 0xFFF is D30. -/

open Sys2Proof Sys2Proof.Machine

/-! ### Reset -/

/-- R37, R220: what reset leaves. The values of `I`, the stack slots, the framebuffer, the keys and the two request
flags are the spec's decision D23, the font's place and bytes D15 (log 3, log 4). -/
def Obligations.ResetLeavesTableValues : Prop :=
  (∀ r : Reg, State.reset.getV r = 0) ∧ State.reset.i = 0 ∧ State.reset.pc = 0x200#16 ∧
  State.reset.sp = 0 ∧ (∀ k : Fin 16, State.reset.stack[k] = 0) ∧
  Config.font.length = 80 ∧
  (∀ a, a < 80 → State.reset.mem.read a = Config.font.getD a 0) ∧
  (∀ a, 80 ≤ a → State.reset.mem.read a = 0) ∧
  State.reset.dt = 0 ∧ State.reset.st = 0 ∧
  (∀ x y, State.reset.fb.cell x y = false) ∧ (∀ k : Fin 16, State.reset.keyDown k = false) ∧
  State.reset.drawReq = false ∧ State.reset.beepReq = false

/-- R220, R221: the host's reset gives the reset state whatever the state before, and a second one changes nothing.
The values are in part D23 (log 3). The counter of random bytes is the model's own and goes on (log 2). -/
def Obligations.HostResetForgetsTheStateBefore : Prop :=
  ∀ s : State, UnchangedBut [.draws] State.reset (hostReset s) ∧ hostReset (hostReset s) = hostReset s

/-- The two invariants below hold right after reset. The canonical form of memory is the model's own representation and
no rule of the spec (DESIGN CHOICE, log 12); the bound on `PC` is R26 (D2, D26), its reset value R37 and R220, that of
the stack slots D23 (log 3). -/
def Obligations.ResetMeetsBothInvariants : Prop :=
  MemoryCanonical State.reset ∧ PcInRange State.reset

/-! ### Decoding and encoding -/

/-- R74, R75: the decoder reads the word of every instruction as that instruction, with every operand at every value,
also from the bytes memory holds. Families A and B are admitted by D2 (log 5), the numbering of family 8 is D4
(log 13). -/
def Obligations.DecodeAfterEncodeIsIdentity : Prop :=
  ∀ i : Instr, i.wellFormed = true →
    decodeWord (encode i) = some i ∧ ∀ rest, decode (encodeBytes i ++ rest) = .instr i rest

/-- R74, R75: no two words decode to the same instruction, so the encoder gives back the word that was decoded. Families
A and B are admitted by D2 (log 5), the strict matching is D3 and the numbering of family 8 D4 (log 13). -/
def Obligations.EncodeAfterDecodeIsIdentity : Prop :=
  ∀ (w : Word) (i : Instr), decodeWord w = some i → encode i = w ∧ i.wellFormed = true

/-- R74: a word is an instruction of a row exactly when the row's mask keeps the row's match of it. Rows A and B are
admitted by D2, the strict masks are D3, the numbering of family 8 is D4 (log 13). -/
def Obligations.DecodeFollowsMaskAndMatch : Prop :=
  ∀ (w : Word) (i : Instr), i.wellFormed = true →
    (w &&& rowMask i = rowMatch i ↔
      ∃ j, decodeWord w = some j ∧ rowMask j = rowMask i ∧ rowMatch j = rowMatch i)

/-- R80, R81: the words that decode to no instruction are exactly these (D2, D3; the gaps of family 8: D4). -/
def Obligations.UnknownWordsAreTheListed : Prop :=
  ∀ w : Word, decodeWord w = none ↔
    (w.toNat < 0x1000 ∧ w.toNat ≠ 0x00E0 ∧ w.toNat ≠ 0x00EE) ∨
    (w.toNat / 4096 = 0x5 ∧ w.toNat % 16 ≠ 0) ∨
    (w.toNat / 4096 = 0x8 ∧ w.toNat % 16 ∈ [0x8, 0x9, 0xA, 0xB, 0xC, 0xD, 0xF]) ∨
    (w.toNat / 4096 = 0x9 ∧ w.toNat % 16 ≠ 0) ∨
    (w.toNat / 4096 = 0xE ∧ w.toNat % 256 ≠ 0x9E ∧ w.toNat % 256 ≠ 0xA1) ∨
    (w.toNat / 4096 = 0xF ∧
      w.toNat % 256 ∉ [0x07, 0x0A, 0x15, 0x18, 0x1E, 0x29, 0x33, 0x55, 0x65])

/-- Some words written out from R74, one or more of each format, and what they stand for (sanity). That 0x5AB1 and
0x0000 are unknown is the strict matching of D3 (R79, R80), that 0x8AB7 is SUBN the numbering of D4 (log 13). -/
def Obligations.SampleWordsDecode : Prop :=
  decodeWord 0x00E0#16 = some .cls ∧ decodeWord 0x2ABC#16 = some (.callNnn 0xABC#12) ∧
  decodeWord 0x3F00#16 = some (.seVxNn 15 0x00#8) ∧ decodeWord 0x8AB7#16 = some (.subnVxVy 10 11) ∧
  decodeWord 0xD120#16 = some (.drwVxVyN 1 2 0) ∧ decodeWord 0xEFA1#16 = some (.sknpVx 15) ∧
  decodeWord 0xFF65#16 = some (.ldVxMem 15) ∧ decodeWord 0x5AB1#16 = none ∧ decodeWord 0x0000#16 = none

/-! ### The cycle -/

/-- R90, R93, R94: when the bytes at `PC` decode to an instruction, the step is the timer update after the execute
phase of it, on the state with the random byte of this step taken and no error reported yet. That the error is a field
cleared at the start is the model's choice (log 1), so are `rnd` from `Config.randomByte` and the counter `draws`
(log 2, D27) and `exec` as phase 3 alone (log 18). That the timer update follows also when FX0A waits or the instruction
reports an error is D9 (R90, R96), the beep latch in that update D22, that `PC` may be odd D26, that every `PC` up to
0xFFE is fetched D30 (log 13). -/
def Obligations.StepRunsDecodedInstruction : Prop :=
  ∀ (s : State) (i : Instr), i.wellFormed = true → s.pc.toNat ≤ 0xFFE →
    decode [s.mem.read s.pc.toNat, s.mem.read (s.pc.toNat + 1)] = .instr i [] →
    step s = thenTick (exec i s.stepStart) ∧
    (∀ t, exec i s.stepStart = .next t → step s = .next t.tick) ∧
    UnchangedBut [.err, .rnd, .draws] s s.stepStart ∧ s.stepStart.err = none ∧
    s.stepStart.rnd = Config.randomByte s.draws ∧ s.stepStart.draws = s.draws + 1

/-- R92: the fetch reads two consecutive bytes at `PC`, odd or even, big-endian, and fails with `MemoryOutOfBounds`
exactly when one of them does not exist. The exact bound 0xFFE is D30 and an odd `PC` D26, the recorded address
`max(PC, 0x1000)` is the spec's own addition (R190, D8; log 13). -/
def Obligations.FetchReadsTwoBytesBigEndian : Prop :=
  ∀ s : State,
    (s.pc.toNat ≤ 0xFFE → ∃ w : Word, fetch s = .ok w ∧
      w.toNat = (s.mem.read s.pc.toNat).toNat * 256 + (s.mem.read (s.pc.toNat + 1)).toNat) ∧
    (0xFFE < s.pc.toNat → fetch s = .error (.memoryOutOfBounds (max s.pc.toNat 0x1000)))

/-- R7, R99: `step` is total, no instruction halts the machine and no error stops it (D1; the random
byte is any, D27; no fault at all: log 11). -/
def Obligations.EveryStepAnswersNextState : Prop :=
  (∀ s : State, ∃ t, step s = .next t) ∧ (∀ (rnd : Byte) (s : State), ∃ t, cycle rnd s = .next t) ∧
  (∀ (i : Instr) (s : State), ∃ t, exec i s = .next t)

/-- R30, R96, R97: the delay timer counts down by 1 in every step and stops at 0, also on error steps and while FX0A
waits (D9); a value that FX15 writes counts down in the same step. -/
def Obligations.DelayTimerCountsEveryStep : Prop :=
  ∀ s t : State, step s = .next t →
    (∀ x, fetchedInstr s = some (.ldDtVx x) → t.dt.toNat = (s.getV x).toNat - 1) ∧
    ((∀ x, fetchedInstr s ≠ some (.ldDtVx x)) → t.dt.toNat = s.dt.toNat - 1)

/-- R31, R96, R97: the same of the sound timer, and the beep is requested exactly when it goes from 1 to 0; the request
is never lowered by a step (D9, D22). -/
def Obligations.SoundTimerCountsAndBeeps : Prop :=
  ∀ s t : State, step s = .next t →
    (∀ x, fetchedInstr s = some (.ldStVx x) →
      t.st.toNat = (s.getV x).toNat - 1 ∧ t.beepReq = (s.beepReq || decide (s.getV x = 1))) ∧
    ((∀ x, fetchedInstr s ≠ some (.ldStVx x)) →
      t.st.toNat = s.st.toNat - 1 ∧ t.beepReq = (s.beepReq || decide (s.st = 1)))

/-! ### Errors -/

/-- R192, R99 (c): a fetch error is reported, `PC` stays, and only the timers and the beep request change besides; so it
is of every later step, however many are taken (D7, D9). The bound 0xFFE is R92 with D30, the recorded address R190
with D8, and that an older beep request is kept is D22 (log 13); `err` is log 1, `rnd` and `draws` are log 2. With
`n` = 1 it is the statement about one step. -/
def Obligations.FetchErrorRepeatsForever : Prop :=
  ∀ (n : Nat) (s : State), 0xFFE < s.pc.toNat → ∃ t, stepRepeat n s = .next t ∧
    (0 < n → t.err = some (.memoryOutOfBounds (max s.pc.toNat 0x1000))) ∧
    t.dt.toNat = s.dt.toNat - n ∧ t.st.toNat = s.st.toNat - n ∧
    t.beepReq = (s.beepReq || decide (0 < s.st.toNat ∧ s.st.toNat ≤ n)) ∧
    UnchangedBut [.dt, .st, .beepReq, .err, .rnd, .draws] s t

/-- R80, R193: an unknown word is reported with the raw word, `PC` advances by 2 and nothing else changes but the
timers (D5, D9; log 6). -/
def Obligations.UnknownWordIsReportedAndSkipped : Prop :=
  ∀ (s : State) (w : Word), fetch s = .ok w → decodeWord w = none → ∃ t, step s = .next t ∧
    t.err = some (.unknownOpcode w) ∧ t.pc = s.pc + 2#16 ∧
    t.dt.toNat = s.dt.toNat - 1 ∧ t.st.toNat = s.st.toNat - 1 ∧
    UnchangedBut [.pc, .dt, .st, .beepReq, .err, .rnd, .draws] s t

/-- R95, R190 to R194: whatever error a step reports, the step has changed nothing but `PC` and the timers; `PC` stays
on a fetch error and advances by 2 otherwise; and the instruction, if one was fetched, is one that can report
(D5 to D9; the fetch bound is D30). -/
def Obligations.ReportedErrorsHaveNoOtherEffect : Prop :=
  ∀ (s t : State) (e : MachineError), step s = .next t → t.err = some e →
    UnchangedBut [.pc, .dt, .st, .beepReq, .err, .rnd, .draws] s t ∧
    (0xFFE < s.pc.toNat → t.pc = s.pc) ∧ (s.pc.toNat ≤ 0xFFE → t.pc = s.pc + 2#16) ∧
    (∀ i, fetchedInstr s = some i → canReport i = true)

/-- R53, R190, R193: DXYN, FX33, FX55 and FX65 whose last byte would lie above 0xFFF report the lowest such address,
advance `PC` by 2 and do nothing else, not even for the bytes that are in range (D8; exact bound D30). -/
def Obligations.DataOutOfBoundsIsReported : Prop :=
  ∀ (s : State) (i : Instr) (last : Nat),
    ((∃ x y n, i = .drwVxVyN x y n ∧ 0 < n.val ∧ last = s.i.toNat + n.val - 1) ∨
      (∃ x, i = .ldBVx x ∧ last = s.i.toNat + 2) ∨
      (∃ x, i = .ldMemVx x ∧ last = s.i.toNat + x.val) ∨
      (∃ x, i = .ldVxMem x ∧ last = s.i.toNat + x.val)) →
    0xFFF < last →
    ∃ t, exec i s = .next t ∧ t.err = some (.memoryOutOfBounds (max s.i.toNat 0x1000)) ∧
      t.pc = s.pc + 2#16 ∧ UnchangedBut [.pc, .err] s t

/-! ### Invariants -/

/-- The canonical form of memory (log 12) is kept by every step and by every move of the host. -/
def Obligations.StepsKeepMemoryCanonical : Prop :=
  ∀ s : State, MemoryCanonical s →
    (∀ t, step s = .next t → MemoryCanonical t) ∧ (∀ m t, hostMove m s = .next t → MemoryCanonical t)

/-- R26: `PC` never exceeds 0x10FE, and no stack slot 0x1000; every step and every move of the host keeps it. It
rests on D2 (BNNN), D5, D6 and D8 (errors advance by 2), D7 (a fetch error stays), D10 (what a call pushes), D23 (the
stack after the host's reset), D26 (no reduction of `PC`) and D30 (what can be fetched). -/
def Obligations.StepsKeepPcInRange : Prop :=
  ∀ s : State, PcInRange s →
    (∀ t, step s = .next t → PcInRange t) ∧ (∀ m t, hostMove m s = .next t → PcInRange t)

/-! ### Who may change what -/

/-- R34, R182: no instruction and no step writes a key; `setKey` writes the one key it names, changes nothing when the
key has that value, and is the only move of the host besides reset that writes keys. -/
def Obligations.KeysAreWrittenByTheHostAlone : Prop :=
  (∀ (i : Instr) (s t : State), exec i s = .next t → t.key = s.key) ∧
  (∀ s t : State, step s = .next t → t.key = s.key) ∧
  (∀ (k j : Fin 16) (p : Bool) (s : State),
    (setKey k p s).keyDown j = if j = k then p else s.keyDown j) ∧
  (∀ (k : Fin 16) (p : Bool) (s : State),
    UnchangedBut [.key] s (setKey k p s) ∧ (s.keyDown k = p → setKey k p s = s)) ∧
  (∀ (m : HostMove) (s t : State), hostMove m s = .next t → m ≠ .reset → (∀ k p, m ≠ .setKey k p) →
    t.key = s.key)

/-- R29: only 2NNN and 00EE touch the stack or its pointer. -/
def Obligations.OnlyCallAndReturnTouchTheStack : Prop :=
  ∀ (i : Instr) (s t : State), exec i s = .next t → i ≠ .ret → (∀ nnn, i ≠ .callNnn nnn) →
    t.stack = s.stack ∧ t.sp = s.sp

/-- R24, R32: only 00E0 and DXYN write the framebuffer or raise the draw request. -/
def Obligations.OnlyDrawingTouchesTheDisplay : Prop :=
  ∀ (i : Instr) (s t : State), exec i s = .next t → i ≠ .cls → (∀ x y n, i ≠ .drwVxVyN x y n) →
    t.fb = s.fb ∧ t.drawReq = s.drawReq

/-- R32, R52: only FX33 and FX55 write memory, and nothing is ever written above 0xFFF (D8, D30). -/
def Obligations.OnlyStoresWriteMemory : Prop :=
  ∀ (i : Instr) (s t : State), exec i s = .next t →
    ((∀ x, i ≠ .ldBVx x) → (∀ x, i ≠ .ldMemVx x) → ∀ a, t.mem.read a = s.mem.read a) ∧
    (∀ a, 0x1000 ≤ a → t.mem.read a = s.mem.read a)

/-- R28: only ANNN, FX1E and FX29 write `I` (FX55 and FX65 leave it by D11, log 7). -/
def Obligations.OnlyIndexInstructionsWriteIndex : Prop :=
  ∀ (i : Instr) (s t : State), exec i s = .next t →
    (∀ nnn, i ≠ .ldINnn nnn) → (∀ x, i ≠ .addIVx x) → (∀ x, i ≠ .ldFVx x) → t.i = s.i

/-- R22, R23: an instruction writes no general register but those the table gives it, VF included (the shifts: D12;
no flag from 8XY0 to 8XY3: D14). -/
def Obligations.RegistersWrittenAreTheTables : Prop :=
  ∀ (i : Instr) (s t : State), exec i s = .next t → RegistersUnchangedBut (writtenRegisters i) s t

/-! ### Control transfer -/

/-- R112: 1NNN writes `NNN` to `PC` and nothing else; the target 0xFFF makes the next fetch fail. That 0xFFF is out for
a fetch is R92 with the exact bound D30, the recorded address 0x1000 is R190 with D8, and that no target is checked or
reduced when it is written is D26 (log 13). -/
def Obligations.JumpGoesToTarget : Prop :=
  (∀ w : Word, fieldFamily w = 0x1 → decodeWord w = some (.jpNnn (fieldNNN w))) ∧
  ∀ (nnn : Addr12) (s : State), ∃ t, exec (.jpNnn nnn) s = .next t ∧
    t.pc.toNat = nnn.toNat ∧ UnchangedBut [.pc] s t ∧
    (nnn = 0xFFF#12 → fetch t = .error (.memoryOutOfBounds 0x1000))

/-- R118: BNNN adds `V[0]` to `NNN` without reduction to 12 bits (D26); the instruction is admitted by D2
(G3, log 5). -/
def Obligations.JumpWithOffsetAddsRegisterZero : Prop :=
  ∀ (nnn : Addr12) (s : State), ∃ t, exec (.jpV0Nnn nnn) s = .next t ∧
    t.pc.toNat = nnn.toNat + (s.getV 0).toNat ∧ UnchangedBut [.pc] s t

/-- R113: 2NNN pushes the address of the instruction after the call and jumps; with 16 addresses on the stack it
reports `StackOverflow` and is a no-op but for `PC` + 2 (D6, D10). -/
def Obligations.CallPushesReturnAddress : Prop :=
  ∀ (nnn : Addr12) (s : State),
    (s.sp.val < 16 → ∃ t, exec (.callNnn nnn) s = .next t ∧
      t.pc.toNat = nnn.toNat ∧ t.sp.val = s.sp.val + 1 ∧
      (∀ k : Fin 16, t.stack[k] = if k.val = s.sp.val then s.pc + 2#16 else s.stack[k]) ∧
      UnchangedBut [.pc, .stack] s t) ∧
    (s.sp.val = 16 → ∃ t, exec (.callNnn nnn) s = .next t ∧
      t.err = some .stackOverflow ∧ t.pc = s.pc + 2#16 ∧ UnchangedBut [.pc, .err] s t)

/-- R111: 00EE pops the top address into `PC` as it is, and the slot keeps its value; on the empty stack it reports
`StackUnderflow` and is a no-op but for `PC` + 2 (D6, D10). -/
def Obligations.ReturnPopsAddress : Prop :=
  ∀ s : State,
    (∀ k : Fin 16, s.sp.val = k.val + 1 → ∃ t, exec .ret s = .next t ∧
      t.pc = s.stack[k] ∧ t.sp.val = k.val ∧ t.stack = s.stack ∧ UnchangedBut [.pc, .stack] s t) ∧
    (s.sp.val = 0 → ∃ t, exec .ret s = .next t ∧
      t.err = some .stackUnderflow ∧ t.pc = s.pc + 2#16 ∧ UnchangedBut [.pc, .err] s t)

/-- R111, R113 (property S5 of 95_test_vectors.md): a return from the stack a call left gives the instruction after the
call and the depth before it, whatever the subroutine did to the rest of the state (D10). -/
def Obligations.ReturnComesBackAfterTheCall : Prop :=
  ∀ (nnn : Addr12) (s : State), s.sp.val < 16 → ∃ t, exec (.callNnn nnn) s = .next t ∧
    ∀ u : State, u.stack = t.stack → u.sp = t.sp →
      ∃ r, exec .ret u = .next r ∧ r.pc = s.pc + 2#16 ∧ r.sp = s.sp

/-- R113 (property S6): sixteen calls nest without an error and the seventeenth reports `StackOverflow` (D6, D10). -/
def Obligations.SeventeenthNestedCallOverflows : Prop :=
  ∀ (nnn : Addr12) (s : State), s.sp.val = 0 → ∃ t, execRepeat (.callNnn nnn) 16 s = .next t ∧
    t.sp.val = 16 ∧ t.err = s.err ∧
    ∃ u, exec (.callNnn nnn) t = .next u ∧ u.err = some .stackOverflow ∧ u.sp = t.sp ∧ u.stack = t.stack

/-- R114, R115, R116, R117: the skips add 4 to `PC` when the condition holds and 2 when not, and write nothing else.
That 5XYN and 9XYN with `N` not 0 are no instruction is R79 with D3 (log 13). -/
def Obligations.ConditionalSkipsAddFourOrTwo : Prop :=
  (∀ w : Word, fieldFamily w = 0x3 → decodeWord w = some (.seVxNn (fieldX w) (fieldNN w))) ∧
  (∀ w : Word, fieldFamily w = 0x4 → decodeWord w = some (.sneVxNn (fieldX w) (fieldNN w))) ∧
  (∀ w : Word, fieldFamily w = 0x5 →
    decodeWord w = if fieldN w = 0 then some (.seVxVy (fieldX w) (fieldY w)) else none) ∧
  (∀ w : Word, fieldFamily w = 0x9 →
    decodeWord w = if fieldN w = 0 then some (.sneVxVy (fieldX w) (fieldY w)) else none) ∧
  (∀ (x : Reg) (nn : Byte) (s : State), ∃ t, exec (.seVxNn x nn) s = .next t ∧
    t.pc = (if s.getV x = nn then s.pc + 4#16 else s.pc + 2#16) ∧ UnchangedBut [.pc] s t) ∧
  (∀ (x : Reg) (nn : Byte) (s : State), ∃ t, exec (.sneVxNn x nn) s = .next t ∧
    t.pc = (if s.getV x ≠ nn then s.pc + 4#16 else s.pc + 2#16) ∧ UnchangedBut [.pc] s t) ∧
  (∀ (x y : Reg) (s : State), ∃ t, exec (.seVxVy x y) s = .next t ∧
    t.pc = (if s.getV x = s.getV y then s.pc + 4#16 else s.pc + 2#16) ∧ UnchangedBut [.pc] s t) ∧
  (∀ (x y : Reg) (s : State), ∃ t, exec (.sneVxVy x y) s = .next t ∧
    t.pc = (if s.getV x ≠ s.getV y then s.pc + 4#16 else s.pc + 2#16) ∧ UnchangedBut [.pc] s t)

/-! ### Register and arithmetic instructions -/

/-- R132: 6XNN writes exactly `NN` to `V[X]`, VF too when `X` is 15. -/
def Obligations.LoadImmediateWritesByte : Prop :=
  (∀ w : Word, fieldFamily w = 0x6 → decodeWord w = some (.ldVxNn (fieldX w) (fieldNN w))) ∧
  ∀ (x : Reg) (nn : Byte) (s : State), ∃ t, exec (.ldVxNn x nn) s = .next t ∧
    t.getV x = nn ∧ RegistersUnchangedBut [x] s t ∧ t.pc = s.pc + 2#16 ∧ UnchangedBut [.v, .pc] s t

/-- R133: 7XNN adds modulo 256 and records no carry anywhere. -/
def Obligations.AddImmediateWrapsWithoutFlag : Prop :=
  (∀ w : Word, fieldFamily w = 0x7 → decodeWord w = some (.addVxNn (fieldX w) (fieldNN w))) ∧
  ∀ (x : Reg) (nn : Byte) (s : State), ∃ t, exec (.addVxNn x nn) s = .next t ∧
    (t.getV x).toNat = ((s.getV x).toNat + nn.toNat) % 256 ∧ RegistersUnchangedBut [x] s t ∧
    t.pc = s.pc + 2#16 ∧ UnchangedBut [.v, .pc] s t

/-- R134 to R137: assign, OR, AND and XOR act bit by bit on `V[X]` and write no flag (the pairing with nibbles is D4,
the absence of a flag D14). -/
def Obligations.AssignAndLogicWriteNoFlag : Prop :=
  ∀ (x y : Reg) (s : State),
    (∃ t, exec (.ldVxVy x y) s = .next t ∧ t.getV x = s.getV y ∧
      RegistersUnchangedBut [x] s t ∧ t.pc = s.pc + 2#16 ∧ UnchangedBut [.v, .pc] s t) ∧
    (∃ t, exec (.orVxVy x y) s = .next t ∧
      (∀ b, (t.getV x).getLsbD b = ((s.getV x).getLsbD b || (s.getV y).getLsbD b)) ∧
      RegistersUnchangedBut [x] s t ∧ t.pc = s.pc + 2#16 ∧ UnchangedBut [.v, .pc] s t) ∧
    (∃ t, exec (.andVxVy x y) s = .next t ∧
      (∀ b, (t.getV x).getLsbD b = ((s.getV x).getLsbD b && (s.getV y).getLsbD b)) ∧
      RegistersUnchangedBut [x] s t ∧ t.pc = s.pc + 2#16 ∧ UnchangedBut [.v, .pc] s t) ∧
    (∃ t, exec (.xorVxVy x y) s = .next t ∧
      (∀ b, (t.getV x).getLsbD b = ((s.getV x).getLsbD b ^^ (s.getV y).getLsbD b)) ∧
      RegistersUnchangedBut [x] s t ∧ t.pc = s.pc + 2#16 ∧ UnchangedBut [.v, .pc] s t)

/-- R138: 8XY4 leaves the low 8 bits of the sum in `V[X]` and the carry in VF; with `X` = 15 the carry remains
(D13; the nibble 4: D4). -/
def Obligations.AddSetsCarry : Prop :=
  ∀ (x y : Reg) (s : State), ∃ t, exec (.addVxVy x y) s = .next t ∧
    (x ≠ regVF → (t.getV x).toNat = ((s.getV x).toNat + (s.getV y).toNat) % 256) ∧
    (t.getV regVF).toNat = (if (s.getV x).toNat + (s.getV y).toNat > 255 then 1 else 0) ∧
    RegistersUnchangedBut [x, regVF] s t ∧ t.pc = s.pc + 2#16 ∧ UnchangedBut [.v, .pc] s t

/-- R139, R141: 8XY5 and 8XY7 leave the difference modulo 256 in `V[X]` and in VF 1 exactly when there was no borrow;
with `X` = 15 the flag remains (D13; the nibbles 5 and 7: D4). -/
def Obligations.SubtractSetsNoBorrow : Prop :=
  ∀ (x y : Reg) (s : State),
    (∃ t, exec (.subVxVy x y) s = .next t ∧
      (x ≠ regVF → (t.getV x).toNat = ((s.getV x).toNat + 256 - (s.getV y).toNat) % 256) ∧
      (t.getV regVF).toNat = (if (s.getV x).toNat ≥ (s.getV y).toNat then 1 else 0) ∧
      RegistersUnchangedBut [x, regVF] s t ∧ t.pc = s.pc + 2#16 ∧ UnchangedBut [.v, .pc] s t) ∧
    (∃ t, exec (.subnVxVy x y) s = .next t ∧
      (x ≠ regVF → (t.getV x).toNat = ((s.getV y).toNat + 256 - (s.getV x).toNat) % 256) ∧
      (t.getV regVF).toNat = (if (s.getV y).toNat ≥ (s.getV x).toNat then 1 else 0) ∧
      RegistersUnchangedBut [x, regVF] s t ∧ t.pc = s.pc + 2#16 ∧ UnchangedBut [.v, .pc] s t)

/-- R140, R142: 8XY6 and 8XYE shift `V[X]` by one, whatever `Y` is (D12, log 8), and leave the bit shifted out in VF;
with `X` = 15 that bit remains (D13; the nibbles 6 and E: D4). -/
def Obligations.ShiftsDeliverTheBitShiftedOut : Prop :=
  ∀ (x y : Reg) (s : State),
    (∃ t, exec (.shrVx x y) s = .next t ∧
      (x ≠ regVF → (t.getV x).toNat = (s.getV x).toNat / 2) ∧
      (t.getV regVF).toNat = (s.getV x).toNat % 2 ∧
      RegistersUnchangedBut [x, regVF] s t ∧ t.pc = s.pc + 2#16 ∧ UnchangedBut [.v, .pc] s t) ∧
    (∃ t, exec (.shlVx x y) s = .next t ∧
      (x ≠ regVF → (t.getV x).toNat = (s.getV x).toNat * 2 % 256) ∧
      (t.getV regVF).toNat = (s.getV x).toNat / 128 ∧
      RegistersUnchangedBut [x, regVF] s t ∧ t.pc = s.pc + 2#16 ∧ UnchangedBut [.v, .pc] s t)

/-- R143: CXNN leaves the random byte of the step masked by `NN`, for every byte the source may supply (D27, log 2);
so a bit that is 0 in `NN` is 0 in the result of every step. -/
def Obligations.RandomByteIsMasked : Prop :=
  (∀ (x : Reg) (nn : Byte) (s : State), ∃ t, exec (.rndVxNn x nn) s = .next t ∧
    t.getV x = s.rnd &&& nn ∧ RegistersUnchangedBut [x] s t ∧ t.pc = s.pc + 2#16 ∧
    UnchangedBut [.v, .pc] s t) ∧
  (∀ (x : Reg) (nn : Byte) (s t : State), fetchedInstr s = some (.rndVxNn x nn) → step s = .next t →
    ∀ b, nn.getLsbD b = false → (t.getV x).getLsbD b = false)

/-! ### Display -/

/-- R151: 00E0 turns every cell off and always sets the draw request (D20). -/
def Obligations.ClearTurnsEveryCellOff : Prop :=
  ∀ s : State, ∃ t, exec .cls s = .next t ∧ (∀ x y, t.fb.cell x y = false) ∧ t.drawReq = true ∧
    t.pc = s.pc + 2#16 ∧ UnchangedBut [.pc, .fb, .drawReq] s t

/-- R150, R152: DXYN whose bytes exist inverts exactly the cells its sprite covers, each pixel wrapped, sets VF to 1
exactly when a covered cell was on, and always sets the draw request (bit and row order, `N` = 0: D19; D8, D20). -/
def Obligations.DrawInvertsTheCoveredCells : Prop :=
  ∀ (x y : Reg) (n : Nibble) (s : State), (n.val = 0 ∨ s.i.toNat + n.val ≤ 0x1000) →
    ∃ t, exec (.drwVxVyN x y n) s = .next t ∧
      (∀ cx cy, cx < 64 → cy < 32 → t.fb.cell cx cy =
        (s.fb.cell cx cy ^^ spriteCovers s (s.getV x).toNat (s.getV y).toNat n.val cx cy)) ∧
      (spriteHits s (s.getV x).toNat (s.getV y).toNat n.val → t.getV regVF = 1) ∧
      (¬ spriteHits s (s.getV x).toNat (s.getV y).toNat n.val → t.getV regVF = 0) ∧
      RegistersUnchangedBut [regVF] s t ∧ t.drawReq = true ∧ t.pc = s.pc + 2#16 ∧
      UnchangedBut [.v, .pc, .fb, .drawReq] s t

/-- R153 (property S7): the same sprite drawn twice at the same place restores every cell, and the second draw reports
a collision exactly when a covered cell was off before the first (sprite geometry: D19). -/
def Obligations.DrawTwiceRestoresTheDisplay : Prop :=
  ∀ (x y : Reg) (n : Nibble) (s t u : State), (n.val = 0 ∨ s.i.toNat + n.val ≤ 0x1000) →
    exec (.drwVxVyN x y n) s = .next t → t.getV x = s.getV x → t.getV y = s.getV y →
    exec (.drwVxVyN x y n) t = .next u →
    u.fb = s.fb ∧
    (u.getV regVF = 1 ↔ ∃ cx cy, cx < 64 ∧ cy < 32 ∧ s.fb.cell cx cy = false ∧
      spriteCovers s (s.getV x).toNat (s.getV y).toNat n.val cx cy = true)

/-! ### Keys and timers -/

/-- R161, R162: the skips on the key whose index is the low nibble of `V[X]` (D17). -/
def Obligations.KeySkipsReadTheLowNibble : Prop :=
  ∀ (x : Reg) (s : State) (k : Fin 16), k.val = (s.getV x).toNat % 16 →
    (∃ t, exec (.skpVx x) s = .next t ∧
      t.pc = (if s.keyDown k = true then s.pc + 4#16 else s.pc + 2#16) ∧ UnchangedBut [.pc] s t) ∧
    (∃ t, exec (.sknpVx x) s = .next t ∧
      t.pc = (if s.keyDown k = false then s.pc + 4#16 else s.pc + 2#16) ∧ UnchangedBut [.pc] s t)

/-- R163, R164: FX0A with a key pressed delivers the lowest pressed index (D18, log 9); with none it changes nothing
and `PC` is not written. -/
def Obligations.KeyWaitTakesTheLowestKey : Prop :=
  ∀ (x : Reg) (s : State),
    (∀ k : Fin 16, s.keyDown k = true → (∀ j : Fin 16, j < k → s.keyDown j = false) →
      ∃ t, exec (.ldVxK x) s = .next t ∧ (t.getV x).toNat = k.val ∧
        RegistersUnchangedBut [x] s t ∧ t.pc = s.pc + 2#16 ∧ UnchangedBut [.v, .pc] s t) ∧
    ((∀ k : Fin 16, s.keyDown k = false) → exec (.ldVxK x) s = .next s)

/-- R164 (property S9), R96: while no key is pressed, any number of steps on FX0A leaves everything but the timers and
the beep request; the timers run during the wait (D9), the wait ends by level alone (D18) and an older beep
request is kept (D22). -/
def Obligations.KeyWaitHoldsForAnyNumberOfSteps : Prop :=
  ∀ (n : Nat) (x : Reg) (s : State), fetchedInstr s = some (.ldVxK x) →
    (∀ k : Fin 16, s.keyDown k = false) → ∃ t, stepRepeat n s = .next t ∧
      t.dt.toNat = s.dt.toNat - n ∧ t.st.toNat = s.st.toNat - n ∧
      t.beepReq = (s.beepReq || decide (0 < s.st.toNat ∧ s.st.toNat ≤ n)) ∧
      UnchangedBut [.dt, .st, .beepReq, .err, .rnd, .draws] s t

/-- R99 (a), R97: a jump to itself leaves everything but the timers and the beep request, for any number of steps; a
timer at `v` is at 0 after `v` steps and the beep comes then, an older request being kept (D22). -/
def Obligations.JumpToItselfRunsForever : Prop :=
  ∀ (n : Nat) (nnn : Addr12) (s : State), fetchedInstr s = some (.jpNnn nnn) → s.pc.toNat = nnn.toNat →
    ∃ t, stepRepeat n s = .next t ∧
      t.dt.toNat = s.dt.toNat - n ∧ t.st.toNat = s.st.toNat - n ∧
      t.beepReq = (s.beepReq || decide (0 < s.st.toNat ∧ s.st.toNat ≤ n)) ∧
      UnchangedBut [.dt, .st, .beepReq, .err, .rnd, .draws] s t

/-- R165, R166, R167: FX07 reads `DT` as the previous step left it, FX15 and FX18 set the timers, and the timer update
of the same step then takes 1 from each that is nonzero (R96), with a beep when FX18 wrote 1; that an older beep request
is kept is the latch of D22 (log 13). No instruction reads `ST`. -/
def Obligations.TimerInstructionsMoveTimers : Prop :=
  (∀ w : Word, fieldFamily w = 0xF → fieldNN w = 0x07#8 → decodeWord w = some (.ldVxDt (fieldX w))) ∧
  (∀ w : Word, fieldFamily w = 0xF → fieldNN w = 0x15#8 → decodeWord w = some (.ldDtVx (fieldX w))) ∧
  (∀ w : Word, fieldFamily w = 0xF → fieldNN w = 0x18#8 → decodeWord w = some (.ldStVx (fieldX w))) ∧
  (∀ (x : Reg) (s : State), ∃ t, exec (.ldVxDt x) s = .next t ∧ t.getV x = s.dt ∧
    RegistersUnchangedBut [x] s t ∧ t.pc = s.pc + 2#16 ∧ UnchangedBut [.v, .pc] s t ∧
    t.tick.getV x = s.dt ∧ t.tick.dt.toNat = s.dt.toNat - 1) ∧
  (∀ (x : Reg) (s : State), ∃ t, exec (.ldDtVx x) s = .next t ∧ t.dt = s.getV x ∧
    t.pc = s.pc + 2#16 ∧ UnchangedBut [.dt, .pc] s t ∧ t.tick.dt.toNat = (s.getV x).toNat - 1) ∧
  (∀ (x : Reg) (s : State), ∃ t, exec (.ldStVx x) s = .next t ∧ t.st = s.getV x ∧
    t.pc = s.pc + 2#16 ∧ UnchangedBut [.st, .pc] s t ∧ t.tick.st.toNat = (s.getV x).toNat - 1 ∧
    t.tick.beepReq = (s.beepReq || decide (s.getV x = 1))) ∧
  (∀ (i : Instr) (s t : State) (b : Byte), (∀ x, i ≠ .ldStVx x) → exec i s = .next t →
    exec i (s.setSt b) = .next (t.setSt b))

/-- R24, R31: no instruction reads the two request flags or, but for FX18 which replaces it, the sound timer: whatever
they hold, every other component of the next state is the same (the latching of `beepReq` is D22). -/
def Obligations.HostFlagsAreInvisibleToPrograms : Prop :=
  ∀ (i : Instr) (s t t' : State) (b : Byte) (d p : Bool), exec i s = .next t →
    exec i { s with st := b, drawReq := d, beepReq := p } = .next t' →
    UnchangedBut [.st, .drawReq, .beepReq] t t'

/-! ### Index register and memory -/

/-- R171: ANNN writes `NNN`, zero-extended, to `I`; the instruction is admitted by D2 (G2, log 5). -/
def Obligations.LoadIndexWritesAddress : Prop :=
  ∀ (nnn : Addr12) (s : State), ∃ t, exec (.ldINnn nnn) s = .next t ∧
    t.i.toNat = nnn.toNat ∧ t.pc = s.pc + 2#16 ∧ UnchangedBut [.i, .pc] s t

/-- R172: FX1E keeps the sum modulo 65536 and sets VF to 1 exactly when the unreduced sum exceeds 0xFFF (D13, D21). -/
def Obligations.AddToIndexSetsOverflow : Prop :=
  ∀ (x : Reg) (s : State), ∃ t, exec (.addIVx x) s = .next t ∧
    t.i.toNat = (s.i.toNat + (s.getV x).toNat) % 65536 ∧
    (t.getV regVF).toNat = (if s.i.toNat + (s.getV x).toNat > 0xFFF then 1 else 0) ∧
    RegistersUnchangedBut [regVF] s t ∧ t.pc = s.pc + 2#16 ∧ UnchangedBut [.v, .i, .pc] s t

/-- R173: FX29 points `I` at the glyph of the digit in the low nibble, where reset put it (D15, D16, log 4). -/
def Obligations.GlyphAddressIsFiveTimesDigit : Prop :=
  ∀ (x : Reg) (s : State), ∃ t, exec (.ldFVx x) s = .next t ∧
    t.i.toNat = 5 * ((s.getV x).toNat % 16) ∧ t.pc = s.pc + 2#16 ∧ UnchangedBut [.i, .pc] s t

/-- R174: FX33 whose three bytes exist stores three decimal digits that make up `V[X]` and nothing else (the bounds
check is D8). -/
def Obligations.StoreDecimalDigits : Prop :=
  ∀ (x : Reg) (s : State), s.i.toNat + 2 ≤ 0xFFF → ∃ t, exec (.ldBVx x) s = .next t ∧
    (t.mem.read s.i.toNat).toNat = (s.getV x).toNat / 100 ∧
    (t.mem.read (s.i.toNat + 1)).toNat = (s.getV x).toNat / 10 % 10 ∧
    (t.mem.read (s.i.toNat + 2)).toNat = (s.getV x).toNat % 10 ∧
    MemoryUnchangedOutside s.i.toNat 3 s t ∧ t.pc = s.pc + 2#16 ∧ UnchangedBut [.mem, .pc] s t

/-- R175: FX55 whose bytes exist stores `V[0]` to `V[X]` at `I` and up and nothing else; `I` stays (D8, D11, log 7). -/
def Obligations.StoreRegistersWritesTheRun : Prop :=
  ∀ (x : Reg) (s : State), s.i.toNat + x.val ≤ 0xFFF → ∃ t, exec (.ldMemVx x) s = .next t ∧
    (∀ k : Reg, k ≤ x → t.mem.read (s.i.toNat + k.val) = s.getV k) ∧
    MemoryUnchangedOutside s.i.toNat (x.val + 1) s t ∧ t.pc = s.pc + 2#16 ∧ UnchangedBut [.mem, .pc] s t

/-- R176: FX65 whose bytes exist loads `V[0]` to `V[X]` from `I` and up and nothing else; `I` stays (D8, D11, log 7). -/
def Obligations.LoadRegistersReadsTheRun : Prop :=
  ∀ (x : Reg) (s : State), s.i.toNat + x.val ≤ 0xFFF → ∃ t, exec (.ldVxMem x) s = .next t ∧
    (∀ k : Reg, t.getV k = if k ≤ x then s.mem.read (s.i.toNat + k.val) else s.getV k) ∧
    t.pc = s.pc + 2#16 ∧ UnchangedBut [.v, .pc] s t

/-- R175, R176 (property S11): a load from the memory and the index that a store left gives back the registers that
were stored, whatever became of the rest of the state (D8, D11). -/
def Obligations.StoreThenLoadGivesRegistersBack : Prop :=
  ∀ (x : Reg) (s t u : State), s.i.toNat + x.val ≤ 0xFFF → exec (.ldMemVx x) s = .next t →
    u.mem = t.mem → u.i = t.i →
    ∃ r, exec (.ldVxMem x) u = .next r ∧ ∀ k : Reg, k ≤ x → r.getV k = s.getV k

/-- R58, R61: a store into the instruction stream is seen by the very next fetch of that address (D8), which
may be odd (D26) and is bounded as D30 says. -/
def Obligations.StoreIsSeenByTheNextFetch : Prop :=
  ∀ (x k : Reg) (s t u : State), s.i.toNat + x.val ≤ 0xFFF → exec (.ldMemVx x) s = .next t →
    k < x → u.mem = t.mem → u.pc.toNat = s.i.toNat + k.val →
    ∃ w : Word, fetch u = .ok w ∧ w.toNat = (s.getV k).toNat * 256 + (s.getV (k + 1)).toNat

/-! ### The host's operations -/

/-- R181, R222: a ROM of at most 3584 bytes goes verbatim to 0x200 and up, and nothing else changes (D24). -/
def Obligations.LoadCopiesTheImage : Prop :=
  ∀ (image : List Byte) (s : State), image.length ≤ 3584 → ∃ t, load image s = .ok t ∧
    hostMove (.load image) s = .next t ∧
    (∀ k, k < image.length → t.mem.read (0x200 + k) = image.getD k 0) ∧
    MemoryUnchangedOutside 0x200 image.length s t ∧ UnchangedBut [.mem] s t

/-- R196: a ROM longer than 3584 bytes is refused with `RomTooLarge`, the machine state is left unchanged and the machine
can still be stepped. -/
def Obligations.TooLargeImageChangesNothing : Prop :=
  ∀ (image : List Byte) (s : State), 3584 < image.length →
    load image s = .error .romTooLarge ∧ hostMove (.load image) s = .next s ∧ ∃ t, step s = .next t

/-- R183: `clearDrawRequest` lowers the draw request and nothing else, and a step never lowers it. -/
def Obligations.DrawRequestIsClearedByTheHostAlone : Prop :=
  (∀ s : State, (clearDrawRequest s).drawReq = false ∧ UnchangedBut [.drawReq] s (clearDrawRequest s)) ∧
  (∀ s t : State, step s = .next t → s.drawReq = true → t.drawReq = true) ∧
  (∀ s t : State, step s = .next t → s.drawReq = false → t.drawReq = true →
    fetchedInstr s = some .cls ∨ ∃ x y n, fetchedInstr s = some (.drwVxVyN x y n))

/-- R184: `clearBeepRequest` lowers the beep request and nothing else, and a step never lowers it (D22). -/
def Obligations.BeepRequestIsClearedByTheHostAlone : Prop :=
  (∀ s : State, (clearBeepRequest s).beepReq = false ∧ UnchangedBut [.beepReq] s (clearBeepRequest s)) ∧
  (∀ s t : State, step s = .next t → s.beepReq = true → t.beepReq = true)
end

