-- ==== Sys2Proof/Laws/Decode.lean ====
section
/-! SUPPORT. Arithmetic of words: what the masks of R74 keep, the numbers of the formats of R71, and their fields. -/

namespace Sys2Proof

theorem land_high_nibble {n : Nat} (h : n < 65536) : n &&& 0xF000 = n / 4096 * 4096 := by
  have hm : (0xF000 : Nat) = (2 ^ 4 - 1) <<< 12 := by decide
  refine Nat.eq_of_testBit_eq fun i => ?_
  have hd : n / 4096 * 4096 = (n >>> 12) <<< 12 := by
    simp [Nat.shiftLeft_eq, Nat.shiftRight_eq_div_pow]
  rw [hm, hd, Nat.testBit_and, Nat.testBit_shiftLeft, Nat.testBit_shiftLeft, Nat.testBit_shiftRight,
    Nat.testBit_two_pow_sub_one]
  by_cases h12 : 12 ≤ i
  · have e : 12 + (i - 12) = i := by omega
    rw [e]
    by_cases h16 : i - 12 < 4
    · simp [h12, h16]
    · have : n.testBit i = false :=
        Nat.testBit_lt_two_pow (Nat.lt_of_lt_of_le h (Nat.pow_le_pow_right (n := 2) (by decide) (by omega : 16 ≤ i)))
      simp [this]
  · simp [h12]

theorem land_high_and_low {n k : Nat} (h : n < 65536) (hk : k ≤ 12) :
    n &&& (0xF000 ||| (2 ^ k - 1)) = n / 4096 * 4096 + n % 2 ^ k := by
  have hk' : n % 2 ^ k < 2 ^ 12 :=
    Nat.lt_of_lt_of_le (Nat.mod_lt _ (Nat.two_pow_pos k)) (Nat.pow_le_pow_right (by decide) hk)
  rw [Nat.and_or_distrib_left, land_high_nibble h, Nat.and_two_pow_sub_one_eq_mod]
  rw [Nat.mul_comm]
  exact (Nat.two_pow_add_eq_or_of_lt hk' (n / 4096)).symm

/-- The mask 0xF000 keeps the family. -/
theorem and_F000 (w : Word) : w &&& 0xF000#16 = BitVec.ofNat 16 (w.toNat / 4096 * 4096) := by
  apply BitVec.eq_of_toNat_eq
  have := w.isLt
  rw [BitVec.toNat_and, BitVec.toNat_ofNat, BitVec.toNat_ofNat, Nat.mod_eq_of_lt (by decide : 0xF000 < 2 ^ 16),
    land_high_nibble (by omega)]
  omega

/-- The mask 0xF00F keeps the family and the low nibble. -/
theorem and_F00F (w : Word) : w &&& 0xF00F#16 = BitVec.ofNat 16 (w.toNat / 4096 * 4096 + w.toNat % 16) := by
  apply BitVec.eq_of_toNat_eq
  have := w.isLt
  have e := land_high_and_low (n := w.toNat) (k := 4) (by omega) (by decide)
  rw [show (0xF000 ||| (2 ^ 4 - 1) : Nat) = 0xF00F by decide] at e
  rw [BitVec.toNat_and, BitVec.toNat_ofNat, BitVec.toNat_ofNat, Nat.mod_eq_of_lt (by decide : 0xF00F < 2 ^ 16), e]
  omega

/-- The mask 0xF0FF keeps the family and the low byte. -/
theorem and_F0FF (w : Word) : w &&& 0xF0FF#16 = BitVec.ofNat 16 (w.toNat / 4096 * 4096 + w.toNat % 256) := by
  apply BitVec.eq_of_toNat_eq
  have := w.isLt
  have e := land_high_and_low (n := w.toNat) (k := 8) (by omega) (by decide)
  rw [show (0xF000 ||| (2 ^ 8 - 1) : Nat) = 0xF0FF by decide] at e
  rw [BitVec.toNat_and, BitVec.toNat_ofNat, BitVec.toNat_ofNat, Nat.mod_eq_of_lt (by decide : 0xF0FF < 2 ^ 16), e]
  omega

theorem toNat_wordA {f : Nat} (hf : f < 16) (nnn : Addr12) : (wordA f nnn).toNat = f * 4096 + nnn.toNat := by
  have := nnn.isLt
  rw [wordA, BitVec.toNat_ofNat]; omega

theorem toNat_wordI {f : Nat} (hf : f < 16) (x : Reg) (nn : Byte) :
    (wordI f x nn).toNat = f * 4096 + x.val * 256 + nn.toNat := by
  have := nn.isLt
  rw [wordI, BitVec.toNat_ofNat]; omega

theorem toNat_wordR {f n : Nat} (hf : f < 16) (hn : n < 16) (x y : Reg) :
    (wordR f x y n).toNat = f * 4096 + x.val * 256 + y.val * 16 + n := by
  rw [wordR, BitVec.toNat_ofNat]; omega

theorem toNat_wordS {f sub : Nat} (hf : f < 16) (hs : sub < 256) (x : Reg) :
    (wordS f x sub).toNat = f * 4096 + x.val * 256 + sub := by
  rw [wordS, BitVec.toNat_ofNat]; omega

/-- The two bytes of a word, put together, are the word (R50). -/
@[simp] theorem wordOfBytes_high_low (w : Word) : wordOfBytes (highByte w) (lowByte w) = w := by
  apply BitVec.eq_of_toNat_eq
  have := w.isLt
  simp only [wordOfBytes, highByte, lowByte, BitVec.toNat_ofNat]
  omega

end Sys2Proof
end

