-- ==== Sys2Proof/Laws/Memory.lean ====
section
/-! SUPPORT. The laws of main memory: what a read gives after a write, for one byte and for a run of bytes, and that
every operation keeps the canonical form. -/

namespace Sys2Proof.Machine

theorem Memory.read_erase (m : Memory) (a k : Nat) :
    (Memory.erase m a).read k = if k = a then Memory.unlisted a else m.read k := by
  induction m with
  | nil => by_cases h : k = a <;> simp [Memory.erase, Memory.read, h]
  | cons c rest ih =>
    unfold Memory.erase at ih ⊢
    by_cases hc : c.1 = a
    · rw [List.filter_cons_of_neg (by simp [hc]), ih]
      by_cases hk : k = a
      · simp [hk]
      · have : ¬ c.1 = k := by omega
        simp [hk, Memory.read, this]
    · rw [List.filter_cons_of_pos (by simp [hc])]
      by_cases hk : c.1 = k
      · have : ¬ k = a := by omega
        simp [Memory.read, hk, this]
      · simp [Memory.read, hk, ih]

theorem Memory.read_insertCell_same (m : Memory) (a : Nat) (b : Byte) (h : ∀ c ∈ m, c.1 ≠ a) :
    (Memory.insertCell m a b).read a = b := by
  induction m with
  | nil => simp [Memory.insertCell, Memory.read]
  | cons c rest ih =>
    have hc : c.1 ≠ a := h c (by simp)
    have ih := ih fun d hd => h d (by simp [hd])
    unfold Memory.insertCell
    split <;> simp [Memory.read, hc, ih]

theorem Memory.read_insertCell_other (m : Memory) (a k : Nat) (b : Byte) (h : k ≠ a) :
    (Memory.insertCell m a b).read k = m.read k := by
  induction m with
  | nil => simp [Memory.insertCell, Memory.read, Ne.symm h]
  | cons c rest ih =>
    unfold Memory.insertCell
    split <;> simp [Memory.read, Ne.symm h, ih]

/-- A read after a one-byte write: the byte written at its address, the old byte everywhere else (R52, R58). -/
@[simp] theorem Memory.read_write (m : Memory) (a k : Nat) (b : Byte) :
    (m.write a b).read k = if k = a then b else m.read k := by
  unfold Memory.write
  by_cases hb : b = Memory.unlisted a
  · simp [hb, Memory.read_erase]
  · by_cases hk : k = a
    · subst hk
      simp only [hb, if_false, if_true]
      exact Memory.read_insertCell_same _ _ _ (by simp [Memory.erase])
    · simp [hb, hk, Memory.read_insertCell_other, Memory.read_erase]

/-- A read after a run of bytes was written at `a` (R50, R58). -/
theorem Memory.read_writeBytes (m : Memory) (a k : Nat) (bs : List Byte) :
    (m.writeBytes a bs).read k =
      if a ≤ k ∧ k < a + bs.length then bs.getD (k - a) 0 else m.read k := by
  induction bs generalizing m a with
  | nil =>
    have : ¬ (a ≤ k ∧ k < a) := by omega
    simp [Memory.writeBytes, this]
  | cons b bs ih =>
    rw [Memory.writeBytes, ih, Memory.read_write]
    rcases Nat.lt_trichotomy k a with h | h | h
    · rw [if_neg (by omega), if_neg (by omega), if_neg (by omega)]
    · subst h
      rw [if_neg (by omega), if_pos rfl, if_pos (by simp)]
      simp
    · obtain ⟨j, rfl⟩ : ∃ j, k = a + 1 + j := ⟨k - a - 1, by omega⟩
      have hne : ¬ a + 1 + j = a := by omega
      have e1 : a + 1 + j - (a + 1) = j := by omega
      have e2 : a + 1 + j - a = j + 1 := by omega
      have e3 : (a + 1 ≤ a + 1 + j ∧ a + 1 + j < a + 1 + bs.length) ↔
          (a ≤ a + 1 + j ∧ a + 1 + j < a + (b :: bs).length) := by
        simp only [List.length_cons]; omega
      simp only [e1, e2, e3, if_neg hne, List.getD_cons_succ]

@[simp] theorem Memory.length_readBytes (m : Memory) (a n : Nat) : (m.readBytes a n).length = n := by
  induction n generalizing a with
  | zero => rfl
  | succ n ih => simp [Memory.readBytes, ih]

/-- The `k`-th byte of a run that was read (R50). -/
theorem Memory.getD_readBytes (m : Memory) (a n k : Nat) (d : Byte) :
    (m.readBytes a n).getD k d = if k < n then m.read (a + k) else d := by
  induction n generalizing a k with
  | zero => simp [Memory.readBytes]
  | succ n ih =>
    cases k with
    | zero => simp [Memory.readBytes]
    | succ k =>
      have : a + 1 + k = a + (k + 1) := by omega
      simp only [Memory.readBytes, List.getD_cons_succ, ih, this, Nat.add_lt_add_iff_right]

/-! ### The canonical form -/

theorem Memory.wfFrom_mono {lo lo' : Nat} {m : Memory} (h : Memory.wfFrom lo m = true) (hl : lo' ≤ lo) :
    Memory.wfFrom lo' m = true := by
  cases m with
  | nil => rfl
  | cons c rest =>
    simp only [Memory.wfFrom, Bool.and_eq_true, decide_eq_true_eq] at h ⊢
    exact ⟨⟨⟨by omega, h.1.1.2⟩, h.1.2⟩, h.2⟩

theorem Memory.wfFrom_erase {lo : Nat} {m : Memory} (h : Memory.wfFrom lo m = true) (a : Nat) :
    Memory.wfFrom lo (Memory.erase m a) = true := by
  induction m generalizing lo with
  | nil => rfl
  | cons c rest ih =>
    simp only [Memory.wfFrom, Bool.and_eq_true, decide_eq_true_eq] at h
    unfold Memory.erase at ih ⊢
    by_cases hc : c.1 = a
    · rw [List.filter_cons_of_neg (by simp [hc])]
      exact Memory.wfFrom_mono (ih h.2) (by omega)
    · rw [List.filter_cons_of_pos (by simp [hc])]
      simp only [Memory.wfFrom, Bool.and_eq_true, decide_eq_true_eq]
      exact ⟨h.1, ih h.2⟩

theorem Memory.wfFrom_insertCell {lo a : Nat} {b : Byte} {m : Memory} (h : Memory.wfFrom lo m = true)
    (hn : ∀ c ∈ m, c.1 ≠ a) (hlo : lo ≤ a) (ha : a < Config.memSize) (hb : b ≠ Memory.unlisted a) :
    Memory.wfFrom lo (Memory.insertCell m a b) = true := by
  induction m generalizing lo with
  | nil =>
    simp only [Memory.insertCell, Memory.wfFrom, Bool.and_eq_true, decide_eq_true_eq, bne_iff_ne, and_true]
    exact ⟨⟨hlo, ha⟩, hb⟩
  | cons c rest ih =>
    have hc : c.1 ≠ a := hn c (by simp)
    simp only [Memory.wfFrom, Bool.and_eq_true, decide_eq_true_eq, bne_iff_ne] at h
    unfold Memory.insertCell
    split
    · simp only [Memory.wfFrom, Bool.and_eq_true, decide_eq_true_eq, bne_iff_ne]
      exact ⟨⟨⟨hlo, ha⟩, hb⟩, ⟨⟨by omega, h.1.1.2⟩, h.1.2⟩, h.2⟩
    · simp only [Memory.wfFrom, Bool.and_eq_true, decide_eq_true_eq, bne_iff_ne]
      exact ⟨h.1, ih h.2 (fun d hd => hn d (by simp [hd])) (by omega)⟩

/-- A one-byte write at an address that exists keeps the canonical form. -/
theorem Memory.wf_write {m : Memory} (h : m.wf = true) {a : Nat} (ha : a < Config.memSize) (b : Byte) :
    (m.write a b).wf = true := by
  unfold Memory.write
  split
  · exact Memory.wfFrom_erase h a
  · exact Memory.wfFrom_insertCell (Memory.wfFrom_erase h a) (by simp [Memory.erase]) (Nat.zero_le _) ha (by assumption)

/-- A run of bytes written inside memory keeps the canonical form. -/
theorem Memory.wf_writeBytes {m : Memory} (h : m.wf = true) {a : Nat} {bs : List Byte}
    (ha : a + bs.length ≤ Config.memSize) : (m.writeBytes a bs).wf = true := by
  induction bs generalizing m a with
  | nil => exact h
  | cons b bs ih =>
    simp only [List.length_cons] at ha
    exact ih (Memory.wf_write h (by omega) b) (by omega)

theorem Memory.read_below {lo : Nat} {m : Memory} (h : Memory.wfFrom lo m = true) {k : Nat} (hk : k < lo) :
    m.read k = Memory.unlisted k := by
  induction m generalizing lo with
  | nil => rfl
  | cons c rest ih =>
    simp only [Memory.wfFrom, Bool.and_eq_true, decide_eq_true_eq] at h
    have : ¬ c.1 = k := by omega
    simp only [Memory.read, this, if_false]
    exact ih h.2 (by omega)

theorem Memory.wfFrom_ext {lo : Nat} {m n : Memory} (hm : Memory.wfFrom lo m = true) (hn : Memory.wfFrom lo n = true)
    (h : ∀ k, m.read k = n.read k) : m = n := by
  induction m generalizing lo n with
  | nil =>
    cases n with
    | nil => rfl
    | cons d rest =>
      simp only [Memory.wfFrom, Bool.and_eq_true, decide_eq_true_eq, bne_iff_ne] at hn
      have := h d.1
      simp only [Memory.read, if_true] at this
      exact absurd this.symm hn.1.2
  | cons c rest ih =>
    simp only [Memory.wfFrom, Bool.and_eq_true, decide_eq_true_eq, bne_iff_ne] at hm
    cases n with
    | nil =>
      have := h c.1
      simp only [Memory.read, if_true] at this
      exact absurd this hm.1.2
    | cons d rest' =>
      have hn' := hn
      simp only [Memory.wfFrom, Bool.and_eq_true, decide_eq_true_eq, bne_iff_ne] at hn
      have hfst : c.1 = d.1 := by
        rcases Nat.lt_trichotomy c.1 d.1 with hlt | heq | hgt
        · have e := h c.1
          have hne : ¬ d.1 = c.1 := by omega
          simp only [Memory.read, if_true, hne, if_false] at e
          rw [Memory.read_below hn.2 (by omega)] at e
          exact absurd e hm.1.2
        · exact heq
        · have e := h d.1
          have hne : ¬ c.1 = d.1 := by omega
          simp only [Memory.read, if_true, hne, if_false] at e
          rw [Memory.read_below hm.2 (by omega)] at e
          exact absurd e.symm hn.1.2
      have hsnd : c.2 = d.2 := by
        have e := h c.1
        simpa [Memory.read, hfst] using e
      have hcd : c = d := Prod.ext hfst hsnd
      subst hcd
      congr 1
      refine ih hm.2 hn.2 fun k => ?_
      by_cases hk : c.1 = k
      · rw [Memory.read_below hm.2 (by omega), Memory.read_below hn.2 (by omega)]
      · simpa [Memory.read, hk] using h k

/-- Canonical memories that read alike are equal data. -/
theorem Memory.eq_of_read_eq {m n : Memory} (hm : m.wf = true) (hn : n.wf = true)
    (h : ∀ k, m.read k = n.read k) : m = n :=
  Memory.wfFrom_ext hm hn h

end Sys2Proof.Machine
end

