-- ==== Sys2Proof/Laws/State.lean ====
section
/-! SUPPORT. What each update of the state does to each field, true by unfolding, so that no later proof unfolds a
record update. -/

namespace Sys2Proof.Machine

@[simp] theorem State.setV_v (s : State) (x : Reg) (b : Byte) : (s.setV x b).v = s.v.set x.val b := rfl
@[simp] theorem State.setV_i (s : State) (x : Reg) (b : Byte) : (s.setV x b).i = s.i := rfl
@[simp] theorem State.setV_pc (s : State) (x : Reg) (b : Byte) : (s.setV x b).pc = s.pc := rfl
@[simp] theorem State.setV_stack (s : State) (x : Reg) (b : Byte) : (s.setV x b).stack = s.stack := rfl
@[simp] theorem State.setV_sp (s : State) (x : Reg) (b : Byte) : (s.setV x b).sp = s.sp := rfl
@[simp] theorem State.setV_mem (s : State) (x : Reg) (b : Byte) : (s.setV x b).mem = s.mem := rfl
@[simp] theorem State.setV_fb (s : State) (x : Reg) (b : Byte) : (s.setV x b).fb = s.fb := rfl
@[simp] theorem State.setV_dt (s : State) (x : Reg) (b : Byte) : (s.setV x b).dt = s.dt := rfl
@[simp] theorem State.setV_st (s : State) (x : Reg) (b : Byte) : (s.setV x b).st = s.st := rfl
@[simp] theorem State.setV_key (s : State) (x : Reg) (b : Byte) : (s.setV x b).key = s.key := rfl
@[simp] theorem State.setV_drawReq (s : State) (x : Reg) (b : Byte) : (s.setV x b).drawReq = s.drawReq := rfl
@[simp] theorem State.setV_beepReq (s : State) (x : Reg) (b : Byte) : (s.setV x b).beepReq = s.beepReq := rfl
@[simp] theorem State.setV_err (s : State) (x : Reg) (b : Byte) : (s.setV x b).err = s.err := rfl
@[simp] theorem State.setV_rnd (s : State) (x : Reg) (b : Byte) : (s.setV x b).rnd = s.rnd := rfl
@[simp] theorem State.setV_draws (s : State) (x : Reg) (b : Byte) : (s.setV x b).draws = s.draws := rfl

@[simp] theorem State.setI_v (s : State) (a : Word) : (s.setI a).v = s.v := rfl
@[simp] theorem State.setI_i (s : State) (a : Word) : (s.setI a).i = a := rfl
@[simp] theorem State.setI_pc (s : State) (a : Word) : (s.setI a).pc = s.pc := rfl
@[simp] theorem State.setI_stack (s : State) (a : Word) : (s.setI a).stack = s.stack := rfl
@[simp] theorem State.setI_sp (s : State) (a : Word) : (s.setI a).sp = s.sp := rfl
@[simp] theorem State.setI_mem (s : State) (a : Word) : (s.setI a).mem = s.mem := rfl
@[simp] theorem State.setI_fb (s : State) (a : Word) : (s.setI a).fb = s.fb := rfl
@[simp] theorem State.setI_dt (s : State) (a : Word) : (s.setI a).dt = s.dt := rfl
@[simp] theorem State.setI_st (s : State) (a : Word) : (s.setI a).st = s.st := rfl
@[simp] theorem State.setI_key (s : State) (a : Word) : (s.setI a).key = s.key := rfl
@[simp] theorem State.setI_drawReq (s : State) (a : Word) : (s.setI a).drawReq = s.drawReq := rfl
@[simp] theorem State.setI_beepReq (s : State) (a : Word) : (s.setI a).beepReq = s.beepReq := rfl
@[simp] theorem State.setI_err (s : State) (a : Word) : (s.setI a).err = s.err := rfl
@[simp] theorem State.setI_rnd (s : State) (a : Word) : (s.setI a).rnd = s.rnd := rfl
@[simp] theorem State.setI_draws (s : State) (a : Word) : (s.setI a).draws = s.draws := rfl

@[simp] theorem State.setPc_v (s : State) (a : Word) : (s.setPc a).v = s.v := rfl
@[simp] theorem State.setPc_i (s : State) (a : Word) : (s.setPc a).i = s.i := rfl
@[simp] theorem State.setPc_pc (s : State) (a : Word) : (s.setPc a).pc = a := rfl
@[simp] theorem State.setPc_stack (s : State) (a : Word) : (s.setPc a).stack = s.stack := rfl
@[simp] theorem State.setPc_sp (s : State) (a : Word) : (s.setPc a).sp = s.sp := rfl
@[simp] theorem State.setPc_mem (s : State) (a : Word) : (s.setPc a).mem = s.mem := rfl
@[simp] theorem State.setPc_fb (s : State) (a : Word) : (s.setPc a).fb = s.fb := rfl
@[simp] theorem State.setPc_dt (s : State) (a : Word) : (s.setPc a).dt = s.dt := rfl
@[simp] theorem State.setPc_st (s : State) (a : Word) : (s.setPc a).st = s.st := rfl
@[simp] theorem State.setPc_key (s : State) (a : Word) : (s.setPc a).key = s.key := rfl
@[simp] theorem State.setPc_drawReq (s : State) (a : Word) : (s.setPc a).drawReq = s.drawReq := rfl
@[simp] theorem State.setPc_beepReq (s : State) (a : Word) : (s.setPc a).beepReq = s.beepReq := rfl
@[simp] theorem State.setPc_err (s : State) (a : Word) : (s.setPc a).err = s.err := rfl
@[simp] theorem State.setPc_rnd (s : State) (a : Word) : (s.setPc a).rnd = s.rnd := rfl
@[simp] theorem State.setPc_draws (s : State) (a : Word) : (s.setPc a).draws = s.draws := rfl

@[simp] theorem State.setMem_v (s : State) (m : Memory) : (s.setMem m).v = s.v := rfl
@[simp] theorem State.setMem_i (s : State) (m : Memory) : (s.setMem m).i = s.i := rfl
@[simp] theorem State.setMem_pc (s : State) (m : Memory) : (s.setMem m).pc = s.pc := rfl
@[simp] theorem State.setMem_stack (s : State) (m : Memory) : (s.setMem m).stack = s.stack := rfl
@[simp] theorem State.setMem_sp (s : State) (m : Memory) : (s.setMem m).sp = s.sp := rfl
@[simp] theorem State.setMem_mem (s : State) (m : Memory) : (s.setMem m).mem = m := rfl
@[simp] theorem State.setMem_fb (s : State) (m : Memory) : (s.setMem m).fb = s.fb := rfl
@[simp] theorem State.setMem_dt (s : State) (m : Memory) : (s.setMem m).dt = s.dt := rfl
@[simp] theorem State.setMem_st (s : State) (m : Memory) : (s.setMem m).st = s.st := rfl
@[simp] theorem State.setMem_key (s : State) (m : Memory) : (s.setMem m).key = s.key := rfl
@[simp] theorem State.setMem_drawReq (s : State) (m : Memory) : (s.setMem m).drawReq = s.drawReq := rfl
@[simp] theorem State.setMem_beepReq (s : State) (m : Memory) : (s.setMem m).beepReq = s.beepReq := rfl
@[simp] theorem State.setMem_err (s : State) (m : Memory) : (s.setMem m).err = s.err := rfl
@[simp] theorem State.setMem_rnd (s : State) (m : Memory) : (s.setMem m).rnd = s.rnd := rfl
@[simp] theorem State.setMem_draws (s : State) (m : Memory) : (s.setMem m).draws = s.draws := rfl

@[simp] theorem State.setFb_v (s : State) (f : Framebuffer) : (s.setFb f).v = s.v := rfl
@[simp] theorem State.setFb_i (s : State) (f : Framebuffer) : (s.setFb f).i = s.i := rfl
@[simp] theorem State.setFb_pc (s : State) (f : Framebuffer) : (s.setFb f).pc = s.pc := rfl
@[simp] theorem State.setFb_stack (s : State) (f : Framebuffer) : (s.setFb f).stack = s.stack := rfl
@[simp] theorem State.setFb_sp (s : State) (f : Framebuffer) : (s.setFb f).sp = s.sp := rfl
@[simp] theorem State.setFb_mem (s : State) (f : Framebuffer) : (s.setFb f).mem = s.mem := rfl
@[simp] theorem State.setFb_fb (s : State) (f : Framebuffer) : (s.setFb f).fb = f := rfl
@[simp] theorem State.setFb_dt (s : State) (f : Framebuffer) : (s.setFb f).dt = s.dt := rfl
@[simp] theorem State.setFb_st (s : State) (f : Framebuffer) : (s.setFb f).st = s.st := rfl
@[simp] theorem State.setFb_key (s : State) (f : Framebuffer) : (s.setFb f).key = s.key := rfl
@[simp] theorem State.setFb_drawReq (s : State) (f : Framebuffer) : (s.setFb f).drawReq = s.drawReq := rfl
@[simp] theorem State.setFb_beepReq (s : State) (f : Framebuffer) : (s.setFb f).beepReq = s.beepReq := rfl
@[simp] theorem State.setFb_err (s : State) (f : Framebuffer) : (s.setFb f).err = s.err := rfl
@[simp] theorem State.setFb_rnd (s : State) (f : Framebuffer) : (s.setFb f).rnd = s.rnd := rfl
@[simp] theorem State.setFb_draws (s : State) (f : Framebuffer) : (s.setFb f).draws = s.draws := rfl

@[simp] theorem State.setDt_v (s : State) (b : Byte) : (s.setDt b).v = s.v := rfl
@[simp] theorem State.setDt_i (s : State) (b : Byte) : (s.setDt b).i = s.i := rfl
@[simp] theorem State.setDt_pc (s : State) (b : Byte) : (s.setDt b).pc = s.pc := rfl
@[simp] theorem State.setDt_stack (s : State) (b : Byte) : (s.setDt b).stack = s.stack := rfl
@[simp] theorem State.setDt_sp (s : State) (b : Byte) : (s.setDt b).sp = s.sp := rfl
@[simp] theorem State.setDt_mem (s : State) (b : Byte) : (s.setDt b).mem = s.mem := rfl
@[simp] theorem State.setDt_fb (s : State) (b : Byte) : (s.setDt b).fb = s.fb := rfl
@[simp] theorem State.setDt_dt (s : State) (b : Byte) : (s.setDt b).dt = b := rfl
@[simp] theorem State.setDt_st (s : State) (b : Byte) : (s.setDt b).st = s.st := rfl
@[simp] theorem State.setDt_key (s : State) (b : Byte) : (s.setDt b).key = s.key := rfl
@[simp] theorem State.setDt_drawReq (s : State) (b : Byte) : (s.setDt b).drawReq = s.drawReq := rfl
@[simp] theorem State.setDt_beepReq (s : State) (b : Byte) : (s.setDt b).beepReq = s.beepReq := rfl
@[simp] theorem State.setDt_err (s : State) (b : Byte) : (s.setDt b).err = s.err := rfl
@[simp] theorem State.setDt_rnd (s : State) (b : Byte) : (s.setDt b).rnd = s.rnd := rfl
@[simp] theorem State.setDt_draws (s : State) (b : Byte) : (s.setDt b).draws = s.draws := rfl

@[simp] theorem State.setSt_v (s : State) (b : Byte) : (s.setSt b).v = s.v := rfl
@[simp] theorem State.setSt_i (s : State) (b : Byte) : (s.setSt b).i = s.i := rfl
@[simp] theorem State.setSt_pc (s : State) (b : Byte) : (s.setSt b).pc = s.pc := rfl
@[simp] theorem State.setSt_stack (s : State) (b : Byte) : (s.setSt b).stack = s.stack := rfl
@[simp] theorem State.setSt_sp (s : State) (b : Byte) : (s.setSt b).sp = s.sp := rfl
@[simp] theorem State.setSt_mem (s : State) (b : Byte) : (s.setSt b).mem = s.mem := rfl
@[simp] theorem State.setSt_fb (s : State) (b : Byte) : (s.setSt b).fb = s.fb := rfl
@[simp] theorem State.setSt_dt (s : State) (b : Byte) : (s.setSt b).dt = s.dt := rfl
@[simp] theorem State.setSt_st (s : State) (b : Byte) : (s.setSt b).st = b := rfl
@[simp] theorem State.setSt_key (s : State) (b : Byte) : (s.setSt b).key = s.key := rfl
@[simp] theorem State.setSt_drawReq (s : State) (b : Byte) : (s.setSt b).drawReq = s.drawReq := rfl
@[simp] theorem State.setSt_beepReq (s : State) (b : Byte) : (s.setSt b).beepReq = s.beepReq := rfl
@[simp] theorem State.setSt_err (s : State) (b : Byte) : (s.setSt b).err = s.err := rfl
@[simp] theorem State.setSt_rnd (s : State) (b : Byte) : (s.setSt b).rnd = s.rnd := rfl
@[simp] theorem State.setSt_draws (s : State) (b : Byte) : (s.setSt b).draws = s.draws := rfl

@[simp] theorem State.requestDraw_v (s : State) : s.requestDraw.v = s.v := rfl
@[simp] theorem State.requestDraw_i (s : State) : s.requestDraw.i = s.i := rfl
@[simp] theorem State.requestDraw_pc (s : State) : s.requestDraw.pc = s.pc := rfl
@[simp] theorem State.requestDraw_stack (s : State) : s.requestDraw.stack = s.stack := rfl
@[simp] theorem State.requestDraw_sp (s : State) : s.requestDraw.sp = s.sp := rfl
@[simp] theorem State.requestDraw_mem (s : State) : s.requestDraw.mem = s.mem := rfl
@[simp] theorem State.requestDraw_fb (s : State) : s.requestDraw.fb = s.fb := rfl
@[simp] theorem State.requestDraw_dt (s : State) : s.requestDraw.dt = s.dt := rfl
@[simp] theorem State.requestDraw_st (s : State) : s.requestDraw.st = s.st := rfl
@[simp] theorem State.requestDraw_key (s : State) : s.requestDraw.key = s.key := rfl
@[simp] theorem State.requestDraw_drawReq (s : State) : s.requestDraw.drawReq = true := rfl
@[simp] theorem State.requestDraw_beepReq (s : State) : s.requestDraw.beepReq = s.beepReq := rfl
@[simp] theorem State.requestDraw_err (s : State) : s.requestDraw.err = s.err := rfl
@[simp] theorem State.requestDraw_rnd (s : State) : s.requestDraw.rnd = s.rnd := rfl
@[simp] theorem State.requestDraw_draws (s : State) : s.requestDraw.draws = s.draws := rfl

@[simp] theorem State.advance_v (s : State) : s.advance.v = s.v := rfl
@[simp] theorem State.advance_i (s : State) : s.advance.i = s.i := rfl
@[simp] theorem State.advance_pc (s : State) : s.advance.pc = s.pc + 2#16 := rfl
@[simp] theorem State.advance_stack (s : State) : s.advance.stack = s.stack := rfl
@[simp] theorem State.advance_sp (s : State) : s.advance.sp = s.sp := rfl
@[simp] theorem State.advance_mem (s : State) : s.advance.mem = s.mem := rfl
@[simp] theorem State.advance_fb (s : State) : s.advance.fb = s.fb := rfl
@[simp] theorem State.advance_dt (s : State) : s.advance.dt = s.dt := rfl
@[simp] theorem State.advance_st (s : State) : s.advance.st = s.st := rfl
@[simp] theorem State.advance_key (s : State) : s.advance.key = s.key := rfl
@[simp] theorem State.advance_drawReq (s : State) : s.advance.drawReq = s.drawReq := rfl
@[simp] theorem State.advance_beepReq (s : State) : s.advance.beepReq = s.beepReq := rfl
@[simp] theorem State.advance_err (s : State) : s.advance.err = s.err := rfl
@[simp] theorem State.advance_rnd (s : State) : s.advance.rnd = s.rnd := rfl
@[simp] theorem State.advance_draws (s : State) : s.advance.draws = s.draws := rfl

@[simp] theorem State.report_v (s : State) (e : MachineError) : (s.report e).v = s.v := rfl
@[simp] theorem State.report_i (s : State) (e : MachineError) : (s.report e).i = s.i := rfl
@[simp] theorem State.report_pc (s : State) (e : MachineError) : (s.report e).pc = s.pc := rfl
@[simp] theorem State.report_stack (s : State) (e : MachineError) : (s.report e).stack = s.stack := rfl
@[simp] theorem State.report_sp (s : State) (e : MachineError) : (s.report e).sp = s.sp := rfl
@[simp] theorem State.report_mem (s : State) (e : MachineError) : (s.report e).mem = s.mem := rfl
@[simp] theorem State.report_fb (s : State) (e : MachineError) : (s.report e).fb = s.fb := rfl
@[simp] theorem State.report_dt (s : State) (e : MachineError) : (s.report e).dt = s.dt := rfl
@[simp] theorem State.report_st (s : State) (e : MachineError) : (s.report e).st = s.st := rfl
@[simp] theorem State.report_key (s : State) (e : MachineError) : (s.report e).key = s.key := rfl
@[simp] theorem State.report_drawReq (s : State) (e : MachineError) : (s.report e).drawReq = s.drawReq := rfl
@[simp] theorem State.report_beepReq (s : State) (e : MachineError) : (s.report e).beepReq = s.beepReq := rfl
@[simp] theorem State.report_err (s : State) (e : MachineError) : (s.report e).err = some e := rfl
@[simp] theorem State.report_rnd (s : State) (e : MachineError) : (s.report e).rnd = s.rnd := rfl
@[simp] theorem State.report_draws (s : State) (e : MachineError) : (s.report e).draws = s.draws := rfl

@[simp] theorem State.raise_v (s : State) (e : MachineError) : (s.raise e).v = s.v := rfl
@[simp] theorem State.raise_i (s : State) (e : MachineError) : (s.raise e).i = s.i := rfl
@[simp] theorem State.raise_pc (s : State) (e : MachineError) : (s.raise e).pc = s.pc + 2#16 := rfl
@[simp] theorem State.raise_stack (s : State) (e : MachineError) : (s.raise e).stack = s.stack := rfl
@[simp] theorem State.raise_sp (s : State) (e : MachineError) : (s.raise e).sp = s.sp := rfl
@[simp] theorem State.raise_mem (s : State) (e : MachineError) : (s.raise e).mem = s.mem := rfl
@[simp] theorem State.raise_fb (s : State) (e : MachineError) : (s.raise e).fb = s.fb := rfl
@[simp] theorem State.raise_dt (s : State) (e : MachineError) : (s.raise e).dt = s.dt := rfl
@[simp] theorem State.raise_st (s : State) (e : MachineError) : (s.raise e).st = s.st := rfl
@[simp] theorem State.raise_key (s : State) (e : MachineError) : (s.raise e).key = s.key := rfl
@[simp] theorem State.raise_drawReq (s : State) (e : MachineError) : (s.raise e).drawReq = s.drawReq := rfl
@[simp] theorem State.raise_beepReq (s : State) (e : MachineError) : (s.raise e).beepReq = s.beepReq := rfl
@[simp] theorem State.raise_err (s : State) (e : MachineError) : (s.raise e).err = some e := rfl
@[simp] theorem State.raise_rnd (s : State) (e : MachineError) : (s.raise e).rnd = s.rnd := rfl
@[simp] theorem State.raise_draws (s : State) (e : MachineError) : (s.raise e).draws = s.draws := rfl

@[simp] theorem State.raiseFetch_v (s : State) (e : MachineError) : (s.raiseFetch e).v = s.v := rfl
@[simp] theorem State.raiseFetch_i (s : State) (e : MachineError) : (s.raiseFetch e).i = s.i := rfl
@[simp] theorem State.raiseFetch_pc (s : State) (e : MachineError) : (s.raiseFetch e).pc = s.pc := rfl
@[simp] theorem State.raiseFetch_stack (s : State) (e : MachineError) : (s.raiseFetch e).stack = s.stack := rfl
@[simp] theorem State.raiseFetch_sp (s : State) (e : MachineError) : (s.raiseFetch e).sp = s.sp := rfl
@[simp] theorem State.raiseFetch_mem (s : State) (e : MachineError) : (s.raiseFetch e).mem = s.mem := rfl
@[simp] theorem State.raiseFetch_fb (s : State) (e : MachineError) : (s.raiseFetch e).fb = s.fb := rfl
@[simp] theorem State.raiseFetch_dt (s : State) (e : MachineError) : (s.raiseFetch e).dt = s.dt := rfl
@[simp] theorem State.raiseFetch_st (s : State) (e : MachineError) : (s.raiseFetch e).st = s.st := rfl
@[simp] theorem State.raiseFetch_key (s : State) (e : MachineError) : (s.raiseFetch e).key = s.key := rfl
@[simp] theorem State.raiseFetch_drawReq (s : State) (e : MachineError) : (s.raiseFetch e).drawReq = s.drawReq := rfl
@[simp] theorem State.raiseFetch_beepReq (s : State) (e : MachineError) : (s.raiseFetch e).beepReq = s.beepReq := rfl
@[simp] theorem State.raiseFetch_err (s : State) (e : MachineError) : (s.raiseFetch e).err = some e := rfl
@[simp] theorem State.raiseFetch_rnd (s : State) (e : MachineError) : (s.raiseFetch e).rnd = s.rnd := rfl
@[simp] theorem State.raiseFetch_draws (s : State) (e : MachineError) : (s.raiseFetch e).draws = s.draws := rfl

@[simp] theorem State.setLowV_i (s : State) (bytes : List Byte) : (s.setLowV bytes).i = s.i := rfl
@[simp] theorem State.setLowV_pc (s : State) (bytes : List Byte) : (s.setLowV bytes).pc = s.pc := rfl
@[simp] theorem State.setLowV_stack (s : State) (bytes : List Byte) : (s.setLowV bytes).stack = s.stack := rfl
@[simp] theorem State.setLowV_sp (s : State) (bytes : List Byte) : (s.setLowV bytes).sp = s.sp := rfl
@[simp] theorem State.setLowV_mem (s : State) (bytes : List Byte) : (s.setLowV bytes).mem = s.mem := rfl
@[simp] theorem State.setLowV_fb (s : State) (bytes : List Byte) : (s.setLowV bytes).fb = s.fb := rfl
@[simp] theorem State.setLowV_dt (s : State) (bytes : List Byte) : (s.setLowV bytes).dt = s.dt := rfl
@[simp] theorem State.setLowV_st (s : State) (bytes : List Byte) : (s.setLowV bytes).st = s.st := rfl
@[simp] theorem State.setLowV_key (s : State) (bytes : List Byte) : (s.setLowV bytes).key = s.key := rfl
@[simp] theorem State.setLowV_drawReq (s : State) (bytes : List Byte) : (s.setLowV bytes).drawReq = s.drawReq := rfl
@[simp] theorem State.setLowV_beepReq (s : State) (bytes : List Byte) : (s.setLowV bytes).beepReq = s.beepReq := rfl
@[simp] theorem State.setLowV_err (s : State) (bytes : List Byte) : (s.setLowV bytes).err = s.err := rfl
@[simp] theorem State.setLowV_rnd (s : State) (bytes : List Byte) : (s.setLowV bytes).rnd = s.rnd := rfl
@[simp] theorem State.setLowV_draws (s : State) (bytes : List Byte) : (s.setLowV bytes).draws = s.draws := rfl

@[simp] theorem State.setFlag_v (s : State) (f : Bool) : (s.setFlag f).v = s.v.set regVF.val (flagByte f) := rfl
@[simp] theorem State.setFlag_i (s : State) (f : Bool) : (s.setFlag f).i = s.i := rfl
@[simp] theorem State.setFlag_pc (s : State) (f : Bool) : (s.setFlag f).pc = s.pc := rfl
@[simp] theorem State.setFlag_stack (s : State) (f : Bool) : (s.setFlag f).stack = s.stack := rfl
@[simp] theorem State.setFlag_sp (s : State) (f : Bool) : (s.setFlag f).sp = s.sp := rfl
@[simp] theorem State.setFlag_mem (s : State) (f : Bool) : (s.setFlag f).mem = s.mem := rfl
@[simp] theorem State.setFlag_fb (s : State) (f : Bool) : (s.setFlag f).fb = s.fb := rfl
@[simp] theorem State.setFlag_dt (s : State) (f : Bool) : (s.setFlag f).dt = s.dt := rfl
@[simp] theorem State.setFlag_st (s : State) (f : Bool) : (s.setFlag f).st = s.st := rfl
@[simp] theorem State.setFlag_key (s : State) (f : Bool) : (s.setFlag f).key = s.key := rfl
@[simp] theorem State.setFlag_drawReq (s : State) (f : Bool) : (s.setFlag f).drawReq = s.drawReq := rfl
@[simp] theorem State.setFlag_beepReq (s : State) (f : Bool) : (s.setFlag f).beepReq = s.beepReq := rfl
@[simp] theorem State.setFlag_err (s : State) (f : Bool) : (s.setFlag f).err = s.err := rfl
@[simp] theorem State.setFlag_rnd (s : State) (f : Bool) : (s.setFlag f).rnd = s.rnd := rfl
@[simp] theorem State.setFlag_draws (s : State) (f : Bool) : (s.setFlag f).draws = s.draws := rfl

@[simp] theorem State.setResultAndFlag_v (s : State) (x : Reg) (b : Byte) (f : Bool) : (s.setResultAndFlag x b f).v = (s.v.set x.val b).set regVF.val (flagByte f) := rfl
@[simp] theorem State.setResultAndFlag_i (s : State) (x : Reg) (b : Byte) (f : Bool) : (s.setResultAndFlag x b f).i = s.i := rfl
@[simp] theorem State.setResultAndFlag_pc (s : State) (x : Reg) (b : Byte) (f : Bool) : (s.setResultAndFlag x b f).pc = s.pc := rfl
@[simp] theorem State.setResultAndFlag_stack (s : State) (x : Reg) (b : Byte) (f : Bool) : (s.setResultAndFlag x b f).stack = s.stack := rfl
@[simp] theorem State.setResultAndFlag_sp (s : State) (x : Reg) (b : Byte) (f : Bool) : (s.setResultAndFlag x b f).sp = s.sp := rfl
@[simp] theorem State.setResultAndFlag_mem (s : State) (x : Reg) (b : Byte) (f : Bool) : (s.setResultAndFlag x b f).mem = s.mem := rfl
@[simp] theorem State.setResultAndFlag_fb (s : State) (x : Reg) (b : Byte) (f : Bool) : (s.setResultAndFlag x b f).fb = s.fb := rfl
@[simp] theorem State.setResultAndFlag_dt (s : State) (x : Reg) (b : Byte) (f : Bool) : (s.setResultAndFlag x b f).dt = s.dt := rfl
@[simp] theorem State.setResultAndFlag_st (s : State) (x : Reg) (b : Byte) (f : Bool) : (s.setResultAndFlag x b f).st = s.st := rfl
@[simp] theorem State.setResultAndFlag_key (s : State) (x : Reg) (b : Byte) (f : Bool) : (s.setResultAndFlag x b f).key = s.key := rfl
@[simp] theorem State.setResultAndFlag_drawReq (s : State) (x : Reg) (b : Byte) (f : Bool) : (s.setResultAndFlag x b f).drawReq = s.drawReq := rfl
@[simp] theorem State.setResultAndFlag_beepReq (s : State) (x : Reg) (b : Byte) (f : Bool) : (s.setResultAndFlag x b f).beepReq = s.beepReq := rfl
@[simp] theorem State.setResultAndFlag_err (s : State) (x : Reg) (b : Byte) (f : Bool) : (s.setResultAndFlag x b f).err = s.err := rfl
@[simp] theorem State.setResultAndFlag_rnd (s : State) (x : Reg) (b : Byte) (f : Bool) : (s.setResultAndFlag x b f).rnd = s.rnd := rfl
@[simp] theorem State.setResultAndFlag_draws (s : State) (x : Reg) (b : Byte) (f : Bool) : (s.setResultAndFlag x b f).draws = s.draws := rfl

@[simp] theorem State.tick_v (s : State) : s.tick.v = s.v := rfl
@[simp] theorem State.tick_i (s : State) : s.tick.i = s.i := rfl
@[simp] theorem State.tick_pc (s : State) : s.tick.pc = s.pc := rfl
@[simp] theorem State.tick_stack (s : State) : s.tick.stack = s.stack := rfl
@[simp] theorem State.tick_sp (s : State) : s.tick.sp = s.sp := rfl
@[simp] theorem State.tick_mem (s : State) : s.tick.mem = s.mem := rfl
@[simp] theorem State.tick_fb (s : State) : s.tick.fb = s.fb := rfl
@[simp] theorem State.tick_dt (s : State) : s.tick.dt = countDown s.dt := rfl
@[simp] theorem State.tick_st (s : State) : s.tick.st = countDown s.st := rfl
@[simp] theorem State.tick_key (s : State) : s.tick.key = s.key := rfl
@[simp] theorem State.tick_drawReq (s : State) : s.tick.drawReq = s.drawReq := rfl
@[simp] theorem State.tick_beepReq (s : State) : s.tick.beepReq = (s.beepReq || decide (s.st = 1)) := rfl
@[simp] theorem State.tick_err (s : State) : s.tick.err = s.err := rfl
@[simp] theorem State.tick_rnd (s : State) : s.tick.rnd = s.rnd := rfl
@[simp] theorem State.tick_draws (s : State) : s.tick.draws = s.draws := rfl

@[simp] theorem State.beginCycle_v (s : State) (b : Byte) : (s.beginCycle b).v = s.v := rfl
@[simp] theorem State.beginCycle_i (s : State) (b : Byte) : (s.beginCycle b).i = s.i := rfl
@[simp] theorem State.beginCycle_pc (s : State) (b : Byte) : (s.beginCycle b).pc = s.pc := rfl
@[simp] theorem State.beginCycle_stack (s : State) (b : Byte) : (s.beginCycle b).stack = s.stack := rfl
@[simp] theorem State.beginCycle_sp (s : State) (b : Byte) : (s.beginCycle b).sp = s.sp := rfl
@[simp] theorem State.beginCycle_mem (s : State) (b : Byte) : (s.beginCycle b).mem = s.mem := rfl
@[simp] theorem State.beginCycle_fb (s : State) (b : Byte) : (s.beginCycle b).fb = s.fb := rfl
@[simp] theorem State.beginCycle_dt (s : State) (b : Byte) : (s.beginCycle b).dt = s.dt := rfl
@[simp] theorem State.beginCycle_st (s : State) (b : Byte) : (s.beginCycle b).st = s.st := rfl
@[simp] theorem State.beginCycle_key (s : State) (b : Byte) : (s.beginCycle b).key = s.key := rfl
@[simp] theorem State.beginCycle_drawReq (s : State) (b : Byte) : (s.beginCycle b).drawReq = s.drawReq := rfl
@[simp] theorem State.beginCycle_beepReq (s : State) (b : Byte) : (s.beginCycle b).beepReq = s.beepReq := rfl
@[simp] theorem State.beginCycle_err (s : State) (b : Byte) : (s.beginCycle b).err = none := rfl
@[simp] theorem State.beginCycle_rnd (s : State) (b : Byte) : (s.beginCycle b).rnd = b := rfl
@[simp] theorem State.beginCycle_draws (s : State) (b : Byte) : (s.beginCycle b).draws = s.draws := rfl

@[simp] theorem State.takeDraw_v (s : State) : s.takeDraw.v = s.v := rfl
@[simp] theorem State.takeDraw_i (s : State) : s.takeDraw.i = s.i := rfl
@[simp] theorem State.takeDraw_pc (s : State) : s.takeDraw.pc = s.pc := rfl
@[simp] theorem State.takeDraw_stack (s : State) : s.takeDraw.stack = s.stack := rfl
@[simp] theorem State.takeDraw_sp (s : State) : s.takeDraw.sp = s.sp := rfl
@[simp] theorem State.takeDraw_mem (s : State) : s.takeDraw.mem = s.mem := rfl
@[simp] theorem State.takeDraw_fb (s : State) : s.takeDraw.fb = s.fb := rfl
@[simp] theorem State.takeDraw_dt (s : State) : s.takeDraw.dt = s.dt := rfl
@[simp] theorem State.takeDraw_st (s : State) : s.takeDraw.st = s.st := rfl
@[simp] theorem State.takeDraw_key (s : State) : s.takeDraw.key = s.key := rfl
@[simp] theorem State.takeDraw_drawReq (s : State) : s.takeDraw.drawReq = s.drawReq := rfl
@[simp] theorem State.takeDraw_beepReq (s : State) : s.takeDraw.beepReq = s.beepReq := rfl
@[simp] theorem State.takeDraw_err (s : State) : s.takeDraw.err = s.err := rfl
@[simp] theorem State.takeDraw_rnd (s : State) : s.takeDraw.rnd = s.rnd := rfl
@[simp] theorem State.takeDraw_draws (s : State) : s.takeDraw.draws = s.draws + 1 := rfl

end Sys2Proof.Machine
end

