-- ==== Sys2Proof/Laws/Ops.lean ====
section
/-! SUPPORT. One lemma per shared operation that says what it can do, for the proofs to cite instead of unfolding. -/

namespace Sys2Proof.Machine

/-! ### Registers -/

theorem State.getV_eq (s : State) (x : Reg) : s.getV x = s.v[x.val] := rfl

@[simp] theorem State.getV_setV (s : State) (x y : Reg) (b : Byte) :
    (s.setV x b).getV y = if y = x then b else s.getV y := by
  simp only [State.getV_eq, State.setV_v, Vector.getElem_set, Fin.ext_iff, eq_comm]

@[simp] theorem State.getV_setFlag (s : State) (f : Bool) (y : Reg) :
    (s.setFlag f).getV y = if y = regVF then flagByte f else s.getV y :=
  State.getV_setV s regVF y (flagByte f)

/-- The flag is written last: with `x = 15` it is what remains (R131). -/
@[simp] theorem State.getV_setResultAndFlag (s : State) (x y : Reg) (b : Byte) (f : Bool) :
    (s.setResultAndFlag x b f).getV y =
      if y = regVF then flagByte f else if y = x then b else s.getV y := by
  simp [State.setResultAndFlag]

@[simp] theorem State.getV_setLowV (s : State) (bytes : List Byte) (y : Reg) :
    (s.setLowV bytes).getV y = bytes.getD y.val (s.getV y) := by
  simp [State.getV_eq, State.setLowV]

@[simp] theorem State.getV_setI (s : State) (a : Word) (y : Reg) : (s.setI a).getV y = s.getV y := rfl
@[simp] theorem State.getV_setPc (s : State) (a : Word) (y : Reg) : (s.setPc a).getV y = s.getV y := rfl
@[simp] theorem State.getV_setMem (s : State) (m : Memory) (y : Reg) : (s.setMem m).getV y = s.getV y := rfl
@[simp] theorem State.getV_setFb (s : State) (f : Framebuffer) (y : Reg) : (s.setFb f).getV y = s.getV y := rfl
@[simp] theorem State.getV_setDt (s : State) (b : Byte) (y : Reg) : (s.setDt b).getV y = s.getV y := rfl
@[simp] theorem State.getV_setSt (s : State) (b : Byte) (y : Reg) : (s.setSt b).getV y = s.getV y := rfl
@[simp] theorem State.getV_requestDraw (s : State) (y : Reg) : s.requestDraw.getV y = s.getV y := rfl
@[simp] theorem State.getV_advance (s : State) (y : Reg) : s.advance.getV y = s.getV y := rfl
@[simp] theorem State.getV_raise (s : State) (e : MachineError) (y : Reg) : (s.raise e).getV y = s.getV y := rfl
@[simp] theorem State.getV_tick (s : State) (y : Reg) : s.tick.getV y = s.getV y := rfl

/-! ### Program counter and errors -/

/-- A conditional skip writes `PC` and nothing else (R110). -/
theorem State.skipIf_eq (s : State) (c : Bool) :
    s.skipIf c = s.setPc (if c then s.pc + 4#16 else s.pc + 2#16) := by
  cases c <;> rfl

/-- The report of an unknown word is an execute-phase error (R193). -/
@[simp] theorem State.raiseUnknown_eq (s : State) (w : Word) : s.raiseUnknown w = s.raise (.unknownOpcode w) := rfl

/-- The bounds check of R53: no byte, or a last byte at most 0xFFF, gives no error. -/
theorem accessError_none {base n : Nat} (h : n = 0 ∨ base + n ≤ Config.memSize) : accessError base n = none := by
  unfold accessError
  rw [if_neg (by omega)]

/-- The bounds check of R53: a last byte above 0xFFF gives the error with the lowest such address. -/
theorem accessError_some {base n : Nat} (h0 : 0 < n) (h : Config.memSize < base + n) :
    accessError base n = some (.memoryOutOfBounds (max base Config.memSize)) := by
  unfold accessError
  rw [if_pos ⟨h0, h⟩]

/-! ### Accesses to memory -/

theorem State.memRead16_ok (s : State) {addr : Nat} (h : addr + 2 ≤ Config.memSize) :
    s.memRead16 addr =
      .ok (BitVec.ofNat 16 ((s.mem.read addr).toNat * 256 + (s.mem.read (addr + 1)).toNat)) := by
  simp only [State.memRead16, accessError_none (Or.inr h)]

theorem State.memRead16_error (s : State) {addr : Nat} (h : Config.memSize < addr + 2) :
    s.memRead16 addr = .error (.memoryOutOfBounds (max addr Config.memSize)) := by
  simp only [State.memRead16, accessError_some (by omega) h]

theorem State.storeBytes_ok (s : State) {base : Nat} {bytes : List Byte}
    (h : bytes.length = 0 ∨ base + bytes.length ≤ Config.memSize) :
    s.storeBytes base bytes = .ok (s.setMem (s.mem.writeBytes base bytes)) := by
  simp only [State.storeBytes, accessError_none h]

theorem State.storeBytes_error (s : State) {base : Nat} {bytes : List Byte} (h0 : 0 < bytes.length)
    (h : Config.memSize < base + bytes.length) :
    s.storeBytes base bytes = .error (.memoryOutOfBounds (max base Config.memSize)) := by
  simp only [State.storeBytes, accessError_some h0 h]

theorem State.loadBytes_ok (s : State) {base n : Nat} (h : n = 0 ∨ base + n ≤ Config.memSize) :
    s.loadBytes base n = .ok (s.mem.readBytes base n) := by
  simp only [State.loadBytes, accessError_none h]

theorem State.loadBytes_error (s : State) {base n : Nat} (h0 : 0 < n) (h : Config.memSize < base + n) :
    s.loadBytes base n = .error (.memoryOutOfBounds (max base Config.memSize)) := by
  simp only [State.loadBytes, accessError_some h0 h]

/-- Everything `storeBytes` can do: all bytes are inside memory and all are written, or none is and the error is
reported. -/
theorem State.storeBytes_cases (s : State) (base : Nat) (bytes : List Byte) :
    ((bytes.length = 0 ∨ base + bytes.length ≤ Config.memSize) ∧
      s.storeBytes base bytes = .ok (s.setMem (s.mem.writeBytes base bytes))) ∨
    (0 < bytes.length ∧ Config.memSize < base + bytes.length ∧
      s.storeBytes base bytes = .error (.memoryOutOfBounds (max base Config.memSize))) := by
  by_cases h : bytes.length = 0 ∨ base + bytes.length ≤ Config.memSize
  · exact .inl ⟨h, s.storeBytes_ok h⟩
  · exact .inr ⟨by omega, by omega, s.storeBytes_error (by omega) (by omega)⟩

/-- Everything `loadBytes` can do. -/
theorem State.loadBytes_cases (s : State) (base n : Nat) :
    ((n = 0 ∨ base + n ≤ Config.memSize) ∧ s.loadBytes base n = .ok (s.mem.readBytes base n)) ∨
    (0 < n ∧ Config.memSize < base + n ∧
      s.loadBytes base n = .error (.memoryOutOfBounds (max base Config.memSize))) := by
  by_cases h : n = 0 ∨ base + n ≤ Config.memSize
  · exact .inl ⟨h, s.loadBytes_ok h⟩
  · exact .inr ⟨by omega, by omega, s.loadBytes_error (by omega) (by omega)⟩

/-- The fetch: the word at `PC`, or the error of a `PC` above 0xFFE (R92). -/
theorem fetch_cases (s : State) :
    (s.pc.toNat + 2 ≤ Config.memSize ∧
      fetch s = .ok (BitVec.ofNat 16
        ((s.mem.read s.pc.toNat).toNat * 256 + (s.mem.read (s.pc.toNat + 1)).toNat))) ∨
    (Config.memSize < s.pc.toNat + 2 ∧
      fetch s = .error (.memoryOutOfBounds (max s.pc.toNat Config.memSize))) := by
  by_cases h : s.pc.toNat + 2 ≤ Config.memSize
  · exact .inl ⟨h, s.memRead16_ok h⟩
  · exact .inr ⟨by omega, s.memRead16_error (by omega)⟩

/-! ### Operands -/

@[simp] theorem length_bcdDigits (b : Byte) : (bcdDigits b).length = 3 := rfl

@[simp] theorem length_lowRegisters (s : State) (x : Reg) : (lowRegisters s x).length = x.val + 1 := by
  simp only [lowRegisters, List.length_take, Vector.length_toList]
  omega

/-- The `k`-th byte of the register run is `V[k]` (R175). -/
theorem getD_lowRegisters (s : State) (x : Reg) (k : Nat) (d : Byte) (h : k ≤ x.val) :
    (lowRegisters s x).getD k d = s.getV ⟨k, by omega⟩ := by
  have h16 : k < 16 := by omega
  have hk : k < (lowRegisters s x).length := by simp; omega
  rw [List.getD_eq_getElem _ _ hk]
  simp [lowRegisters, State.getV_eq]

/-! ### The call stack -/

/-- Everything `push` can do (R29, R113). -/
theorem State.push_cases (s : State) (a : Word) :
    (∃ h : s.sp.val < 16, s.push a =
      some { s with stack := s.stack.set s.sp.val a, sp := ⟨s.sp.val + 1, by omega⟩ }) ∨
    (s.sp.val = 16 ∧ s.push a = none) := by
  by_cases h : s.sp.val < 16
  · exact .inl ⟨h, by simp [State.push, h]⟩
  · exact .inr ⟨by have := s.sp.isLt; omega, by simp [State.push, h]⟩

/-- Everything `popPc` can do (R29, R111). -/
theorem State.popPc_cases (s : State) :
    (∃ h : 0 < s.sp.val, s.popPc =
      some { s with
        sp := ⟨s.sp.val - 1, by have := s.sp.isLt; omega⟩
        pc := s.stack[s.sp.val - 1]'(by have := s.sp.isLt; omega) }) ∨
    (s.sp.val = 0 ∧ s.popPc = none) := by
  by_cases h : 0 < s.sp.val
  · exact .inl ⟨h, by simp [State.popPc, h]⟩
  · exact .inr ⟨by omega, by simp [State.popPc, h]⟩

/-! ### The framebuffer -/

theorem Framebuffer.ext_cell {f g : Framebuffer} (h : ∀ x y, x < 64 → y < 32 → f.cell x y = g.cell x y) : f = g := by
  refine Vector.ext fun y hy => Vector.ext fun x hx => ?_
  have := h x y hx hy
  simpa only [Framebuffer.cell, Nat.mod_eq_of_lt hx, Nat.mod_eq_of_lt hy] using this

@[simp] theorem Framebuffer.cell_blank (x y : Nat) : Framebuffer.blank.cell x y = false := by
  simp [Framebuffer.cell, Framebuffer.blank]

/-- A flip inverts the one cell it names, coordinates reduced (R33). -/
theorem Framebuffer.cell_flip (f : Framebuffer) (x y x' y' : Nat) :
    (f.flip x y).cell x' y' =
      if x' % 64 = x % 64 ∧ y' % 32 = y % 32 then !f.cell x' y' else f.cell x' y' := by
  by_cases hy : y' % 32 = y % 32
  · by_cases hx : x' % 64 = x % 64
    · simp [Framebuffer.cell, Framebuffer.flip, hx, hy]
    · simp [Framebuffer.cell, Framebuffer.flip, hy, hx, Ne.symm hx]
  · simp [Framebuffer.cell, Framebuffer.flip, hy, Ne.symm hy]

@[simp] theorem Canvas.plot_fb (c : Canvas) (x y : Nat) : (c.plot x y).fb = c.fb.flip x y := rfl
@[simp] theorem Canvas.plot_hit (c : Canvas) (x y : Nat) : (c.plot x y).hit = (c.hit || c.fb.cell x y) := rfl

/-! ### Keys and timers -/

/-- `pick(KEY)` is a pressed key and no lower one is pressed (R163). -/
theorem State.pickKey_some {s : State} {k : Fin 16} (h : s.pickKey = some k) :
    s.keyDown k = true ∧ ∀ j : Fin 16, j < k → s.keyDown j = false := by
  unfold State.pickKey at h
  rw [List.find?_eq_some_iff_getElem] at h
  obtain ⟨hk, i, hi, he, hlt⟩ := h
  refine ⟨hk, fun j hj => ?_⟩
  have hik : i = k.val := by
    have := congrArg Fin.val he
    simpa using this
  have := hlt j.val (by omega)
  simpa using this

/-- No key is picked exactly when none is pressed (R164). -/
theorem State.pickKey_none (s : State) : s.pickKey = none ↔ ∀ k : Fin 16, s.keyDown k = false := by
  simp [State.pickKey]

/-- The countdown is minus 1 and stops at 0 (R30, R31). -/
theorem toNat_countDown (t : Byte) : (countDown t).toNat = t.toNat - 1 := by
  unfold countDown
  split
  · next h => subst h; rfl
  · next h =>
    have : t.toNat ≠ 0 := fun h' => h (BitVec.eq_of_toNat_eq (by simpa using h'))
    have := t.isLt
    rw [BitVec.toNat_sub]
    simp
    omega

/-! ### The cycle -/

@[simp] theorem thenTick_next (t : State) : thenTick (.next t) = .next t.tick := rfl

/-- Everything the cycle can do: a fetch error, an unknown word, or the execute phase of the fetched instruction; the
timer update follows in every case (R90). -/
theorem cycle_cases (rnd : Byte) (s : State) :
    (∃ e, fetch (s.beginCycle rnd) = .error e ∧
      cycle rnd s = .next ((s.beginCycle rnd).report e).tick) ∨
    (∃ w, fetch (s.beginCycle rnd) = .ok w ∧ decodeWord w = none ∧
      cycle rnd s = .next ((s.beginCycle rnd).raise (.unknownOpcode w)).tick) ∨
    (∃ w i, fetch (s.beginCycle rnd) = .ok w ∧ decodeWord w = some i ∧
      cycle rnd s = thenTick (exec i (s.beginCycle rnd))) := by
  cases hf : fetch (s.beginCycle rnd) with
  | error e => exact .inl ⟨e, rfl, by simp [cycle, hf, State.raiseFetch]⟩
  | ok w =>
    cases hd : decodeWord w with
    | none => exact .inr (.inl ⟨w, rfl, hd, by simp [cycle, hf, decodeAndExecute, hd]⟩)
    | some i => exact .inr (.inr ⟨w, i, rfl, hd, by simp [cycle, hf, decodeAndExecute, hd]⟩)

end Sys2Proof.Machine
end

