-- ==== Sys2Proof/Laws/Exec.lean ====
section
/-! SUPPORT. The instructions whose meaning branches, one equation per outcome, for the proofs to cite. The others
answer one next state by unfolding `exec` (rfl). -/

namespace Sys2Proof.Machine

theorem exec_ret_pop (s : State) (h : 0 < s.sp.val) :
    exec .ret s = .next { s with
      sp := ⟨s.sp.val - 1, by have := s.sp.isLt; omega⟩
      pc := s.stack[s.sp.val - 1]'(by have := s.sp.isLt; omega) } := by
  change execRet s = _
  simp [execRet, State.popPc, h]

theorem exec_ret_empty (s : State) (h : s.sp.val = 0) :
    exec .ret s = .next (s.raise .stackUnderflow) := by
  change execRet s = _
  simp [execRet, State.popPc, h]

theorem exec_callNnn_push (s : State) (nnn : Addr12) (h : s.sp.val < 16) :
    exec (.callNnn nnn) s = .next { s with
      stack := s.stack.set s.sp.val (s.pc + 2#16)
      sp := ⟨s.sp.val + 1, by omega⟩
      pc := addrOperand nnn } := by
  change execCallNnn nnn s = _
  simp [execCallNnn, State.push, h, State.setPc]

theorem exec_callNnn_full (s : State) (nnn : Addr12) (h : s.sp.val = 16) :
    exec (.callNnn nnn) s = .next (s.raise .stackOverflow) := by
  change execCallNnn nnn s = _
  simp [execCallNnn, State.push, h]

theorem exec_drwVxVyN_ok (s : State) (x y : Reg) (n : Nibble)
    (h : n.val = 0 ∨ s.i.toNat + n.val ≤ Config.memSize) :
    exec (.drwVxVyN x y n) s = .next (drawSprite s x y (s.mem.readBytes s.i.toNat n.val)) := by
  change execDrwVxVyN x y n s = _
  simp only [execDrwVxVyN, baseOperand, s.loadBytes_ok h]

theorem exec_drwVxVyN_error (s : State) (x y : Reg) (n : Nibble) (h0 : 0 < n.val)
    (h : Config.memSize < s.i.toNat + n.val) :
    exec (.drwVxVyN x y n) s = .next (s.raise (.memoryOutOfBounds (max s.i.toNat Config.memSize))) := by
  change execDrwVxVyN x y n s = _
  simp only [execDrwVxVyN, baseOperand, s.loadBytes_error h0 h]

theorem exec_ldVxK_some (s : State) (x : Reg) {k : Fin 16} (h : s.pickKey = some k) :
    exec (.ldVxK x) s = .next (s.setV x (BitVec.ofNat 8 k.val)).advance := by
  change execLdVxK x s = _
  simp only [execLdVxK, h]

theorem exec_ldVxK_none (s : State) (x : Reg) (h : ∀ k : Fin 16, s.keyDown k = false) :
    exec (.ldVxK x) s = .next s := by
  change execLdVxK x s = _
  simp only [execLdVxK, s.pickKey_none.2 h]

theorem exec_ldBVx_ok (s : State) (x : Reg) (h : s.i.toNat + 3 ≤ Config.memSize) :
    exec (.ldBVx x) s = .next (s.setMem (s.mem.writeBytes s.i.toNat (bcdDigits (s.getV x)))).advance := by
  change execLdBVx x s = _
  simp only [execLdBVx, baseOperand, s.storeBytes_ok (bytes := bcdDigits (s.getV x)) (Or.inr h)]

theorem exec_ldBVx_error (s : State) (x : Reg) (h : Config.memSize < s.i.toNat + 3) :
    exec (.ldBVx x) s = .next (s.raise (.memoryOutOfBounds (max s.i.toNat Config.memSize))) := by
  change execLdBVx x s = _
  simp only [execLdBVx, baseOperand, s.storeBytes_error (bytes := bcdDigits (s.getV x)) (by simp [bcdDigits]) h]

theorem exec_ldMemVx_ok (s : State) (x : Reg) (h : s.i.toNat + (x.val + 1) ≤ Config.memSize) :
    exec (.ldMemVx x) s = .next (s.setMem (s.mem.writeBytes s.i.toNat (lowRegisters s x))).advance := by
  rw [← length_lowRegisters s x] at h
  change execLdMemVx x s = _
  simp only [execLdMemVx, baseOperand, s.storeBytes_ok (Or.inr h)]
  rfl

theorem exec_ldMemVx_error (s : State) (x : Reg) (h : Config.memSize < s.i.toNat + (x.val + 1)) :
    exec (.ldMemVx x) s = .next (s.raise (.memoryOutOfBounds (max s.i.toNat Config.memSize))) := by
  rw [← length_lowRegisters s x] at h
  change execLdMemVx x s = _
  simp only [execLdMemVx, baseOperand, s.storeBytes_error (by simp) h]

theorem exec_ldVxMem_ok (s : State) (x : Reg) (h : s.i.toNat + (x.val + 1) ≤ Config.memSize) :
    exec (.ldVxMem x) s = .next (s.setLowV (s.mem.readBytes s.i.toNat (x.val + 1))).advance := by
  change execLdVxMem x s = _
  simp only [execLdVxMem, baseOperand, s.loadBytes_ok (Or.inr h)]
  rfl

theorem exec_ldVxMem_error (s : State) (x : Reg) (h : Config.memSize < s.i.toNat + (x.val + 1)) :
    exec (.ldVxMem x) s = .next (s.raise (.memoryOutOfBounds (max s.i.toNat Config.memSize))) := by
  change execLdVxMem x s = _
  simp only [execLdVxMem, baseOperand, s.loadBytes_error (by omega) h]

end Sys2Proof.Machine
end

