-- ==== Sys2Proof/Laws/PerInstr.lean ====
section
/-! SUPPORT. One law per instruction, said of it as syntax: its word has the fixed bits of its row (R74). -/

namespace Sys2Proof.Laws

theorem rowMatch_formatA {f : Nat} (hf : f < 16) (nnn : Addr12) :
    wordA f nnn &&& 0xF000#16 = BitVec.ofNat 16 (f * 4096) := by
  have := nnn.isLt
  rw [and_F000, toNat_wordA hf]
  exact congrArg (BitVec.ofNat 16) (by omega)

theorem rowMatch_formatI {f : Nat} (hf : f < 16) (x : Reg) (nn : Byte) :
    wordI f x nn &&& 0xF000#16 = BitVec.ofNat 16 (f * 4096) := by
  have := nn.isLt
  rw [and_F000, toNat_wordI hf]
  exact congrArg (BitVec.ofNat 16) (by omega)

theorem rowMatch_formatR {f n : Nat} (hf : f < 16) (hn : n < 16) (x y : Reg) :
    wordR f x y n &&& 0xF00F#16 = BitVec.ofNat 16 (f * 4096 + n) := by
  rw [and_F00F, toNat_wordR hf hn]
  exact congrArg (BitVec.ofNat 16) (by omega)

theorem rowMatch_formatS {f sub : Nat} (hf : f < 16) (hs : sub < 256) (x : Reg) :
    wordS f x sub &&& 0xF0FF#16 = BitVec.ofNat 16 (f * 4096 + sub) := by
  rw [and_F0FF, toNat_wordS hf hs]
  exact congrArg (BitVec.ofNat 16) (by omega)

/-- The fixed bits of the instruction's word are those of its row of R74. -/
def RowMatch.Statement (i : Instr) : Prop :=
  encode i &&& rowMask i = rowMatch i

theorem RowMatch.cls : RowMatch.Statement .cls := by unfold RowMatch.Statement; decide
theorem RowMatch.ret : RowMatch.Statement .ret := by unfold RowMatch.Statement; decide
theorem RowMatch.jpNnn (nnn : Addr12) : RowMatch.Statement (.jpNnn nnn) := rowMatch_formatA (by decide) nnn
theorem RowMatch.callNnn (nnn : Addr12) : RowMatch.Statement (.callNnn nnn) := rowMatch_formatA (by decide) nnn
theorem RowMatch.seVxNn (x : Reg) (nn : Byte) : RowMatch.Statement (.seVxNn x nn) := rowMatch_formatI (by decide) x nn
theorem RowMatch.sneVxNn (x : Reg) (nn : Byte) : RowMatch.Statement (.sneVxNn x nn) := rowMatch_formatI (by decide) x nn
theorem RowMatch.seVxVy (x : Reg) (y : Reg) : RowMatch.Statement (.seVxVy x y) := rowMatch_formatR (by decide) (by decide) x y
theorem RowMatch.ldVxNn (x : Reg) (nn : Byte) : RowMatch.Statement (.ldVxNn x nn) := rowMatch_formatI (by decide) x nn
theorem RowMatch.addVxNn (x : Reg) (nn : Byte) : RowMatch.Statement (.addVxNn x nn) := rowMatch_formatI (by decide) x nn
theorem RowMatch.ldVxVy (x : Reg) (y : Reg) : RowMatch.Statement (.ldVxVy x y) := rowMatch_formatR (by decide) (by decide) x y
theorem RowMatch.orVxVy (x : Reg) (y : Reg) : RowMatch.Statement (.orVxVy x y) := rowMatch_formatR (by decide) (by decide) x y
theorem RowMatch.andVxVy (x : Reg) (y : Reg) : RowMatch.Statement (.andVxVy x y) := rowMatch_formatR (by decide) (by decide) x y
theorem RowMatch.xorVxVy (x : Reg) (y : Reg) : RowMatch.Statement (.xorVxVy x y) := rowMatch_formatR (by decide) (by decide) x y
theorem RowMatch.addVxVy (x : Reg) (y : Reg) : RowMatch.Statement (.addVxVy x y) := rowMatch_formatR (by decide) (by decide) x y
theorem RowMatch.subVxVy (x : Reg) (y : Reg) : RowMatch.Statement (.subVxVy x y) := rowMatch_formatR (by decide) (by decide) x y
theorem RowMatch.shrVx (x : Reg) (y : Reg) : RowMatch.Statement (.shrVx x y) := rowMatch_formatR (by decide) (by decide) x y
theorem RowMatch.subnVxVy (x : Reg) (y : Reg) : RowMatch.Statement (.subnVxVy x y) := rowMatch_formatR (by decide) (by decide) x y
theorem RowMatch.shlVx (x : Reg) (y : Reg) : RowMatch.Statement (.shlVx x y) := rowMatch_formatR (by decide) (by decide) x y
theorem RowMatch.sneVxVy (x : Reg) (y : Reg) : RowMatch.Statement (.sneVxVy x y) := rowMatch_formatR (by decide) (by decide) x y
theorem RowMatch.ldINnn (nnn : Addr12) : RowMatch.Statement (.ldINnn nnn) := rowMatch_formatA (by decide) nnn
theorem RowMatch.jpV0Nnn (nnn : Addr12) : RowMatch.Statement (.jpV0Nnn nnn) := rowMatch_formatA (by decide) nnn
theorem RowMatch.rndVxNn (x : Reg) (nn : Byte) : RowMatch.Statement (.rndVxNn x nn) := rowMatch_formatI (by decide) x nn
theorem RowMatch.drwVxVyN (x : Reg) (y : Reg) (n : Nibble) : RowMatch.Statement (.drwVxVyN x y n) := by
  show wordR 0xD x y n.val &&& 0xF000#16 = _
  rw [and_F000, toNat_wordR (by decide) n.isLt]
  exact congrArg (BitVec.ofNat 16) (by omega)
theorem RowMatch.skpVx (x : Reg) : RowMatch.Statement (.skpVx x) := rowMatch_formatS (by decide) (by decide) x
theorem RowMatch.sknpVx (x : Reg) : RowMatch.Statement (.sknpVx x) := rowMatch_formatS (by decide) (by decide) x
theorem RowMatch.ldVxDt (x : Reg) : RowMatch.Statement (.ldVxDt x) := rowMatch_formatS (by decide) (by decide) x
theorem RowMatch.ldVxK (x : Reg) : RowMatch.Statement (.ldVxK x) := rowMatch_formatS (by decide) (by decide) x
theorem RowMatch.ldDtVx (x : Reg) : RowMatch.Statement (.ldDtVx x) := rowMatch_formatS (by decide) (by decide) x
theorem RowMatch.ldStVx (x : Reg) : RowMatch.Statement (.ldStVx x) := rowMatch_formatS (by decide) (by decide) x
theorem RowMatch.addIVx (x : Reg) : RowMatch.Statement (.addIVx x) := rowMatch_formatS (by decide) (by decide) x
theorem RowMatch.ldFVx (x : Reg) : RowMatch.Statement (.ldFVx x) := rowMatch_formatS (by decide) (by decide) x
theorem RowMatch.ldBVx (x : Reg) : RowMatch.Statement (.ldBVx x) := rowMatch_formatS (by decide) (by decide) x
theorem RowMatch.ldMemVx (x : Reg) : RowMatch.Statement (.ldMemVx x) := rowMatch_formatS (by decide) (by decide) x
theorem RowMatch.ldVxMem (x : Reg) : RowMatch.Statement (.ldVxMem x) := rowMatch_formatS (by decide) (by decide) x

end Sys2Proof.Laws
end

