-- ==== Sys2Proof/Tests/Slice0.lean ====
section
/-! SUPPORT. The model's own tests. Expected results are those of spec/95_test_vectors.md (the vector's id stands in the
comment), never the model's own answers. Each execution test is one cycle. -/

namespace Sys2Proof.Tests

open Sys2Proof.Machine

/-- A state with a word stored at an address and `PC` on it. -/
def putAt (addr : Nat) (w : Word) (s : State) : State :=
  placeWord (s.setPc (BitVec.ofNat 16 addr)) w

/-- The state with a few registers set. -/
def withV (vs : List (Reg × Byte)) (s : State) : State :=
  vs.foldl (fun acc p => acc.setV p.1 p.2) s

/-- The state with bytes stored from an address on. -/
def withMem (a : Nat) (bytes : List Byte) (s : State) : State :=
  s.setMem (s.mem.writeBytes a bytes)

/-- The state with one cell on. -/
def withCell (x y : Nat) (s : State) : State := s.setFb (s.fb.flip x y)

/-- Does the outcome have a next state with the property? -/
def holdsAfter (r : Result) (p : State → Bool) : Bool :=
  match r with
  | .next t => p t
  | _ => false

/-! ### WellFormed refuses an ill-formed term of each check -/

theorem test_wellFormed_refuses_ANNN_when_not_admitted :
    Instr.wellFormedWith false (.ldINnn 0x300#12) = false := by decide
theorem test_wellFormed_refuses_BNNN_when_not_admitted :
    Instr.wellFormedWith false (.jpV0Nnn 0x300#12) = false := by decide
theorem test_decoder_refuses_family_A_when_not_admitted :
    decodeWordWith false 0xA300#16 = none := by decide

/-! ### Every constructor's word, bit by bit from the encodings of spec/opcode_table.json -/

theorem test_decode_cls : decodeWord 0b0000000011100000#16 = some .cls := by decide
theorem test_decode_ret : decodeWord 0b0000000011101110#16 = some .ret := by decide
theorem test_decode_jpNnn : decodeWord 0b0001101010111100#16 = some (.jpNnn 0xABC#12) := by decide
theorem test_decode_callNnn : decodeWord 0b0010101010111100#16 = some (.callNnn 0xABC#12) := by decide
theorem test_decode_seVxNn : decodeWord 0b0011111100000101#16 = some (.seVxNn 15 0x05#8) := by decide
theorem test_decode_sneVxNn : decodeWord 0b0100000100010010#16 = some (.sneVxNn 1 0x12#8) := by decide
theorem test_decode_seVxVy : decodeWord 0b0101101010110000#16 = some (.seVxVy 10 11) := by decide
theorem test_decode_ldVxNn : decodeWord 0b0110110010000000#16 = some (.ldVxNn 12 0x80#8) := by decide
theorem test_decode_addVxNn : decodeWord 0b0111001000000001#16 = some (.addVxNn 2 0x01#8) := by decide
theorem test_decode_ldVxVy : decodeWord 0b1000101010110000#16 = some (.ldVxVy 10 11) := by decide
theorem test_decode_orVxVy : decodeWord 0b1000101010110001#16 = some (.orVxVy 10 11) := by decide
theorem test_decode_andVxVy : decodeWord 0b1000101010110010#16 = some (.andVxVy 10 11) := by decide
theorem test_decode_xorVxVy : decodeWord 0b1000101010110011#16 = some (.xorVxVy 10 11) := by decide
theorem test_decode_addVxVy : decodeWord 0b1000101010110100#16 = some (.addVxVy 10 11) := by decide
theorem test_decode_subVxVy : decodeWord 0b1000101010110101#16 = some (.subVxVy 10 11) := by decide
theorem test_decode_shrVx : decodeWord 0b1000101010110110#16 = some (.shrVx 10 11) := by decide
theorem test_decode_subnVxVy : decodeWord 0b1000101010110111#16 = some (.subnVxVy 10 11) := by decide
theorem test_decode_shlVx : decodeWord 0b1000101010111110#16 = some (.shlVx 10 11) := by decide
theorem test_decode_sneVxVy : decodeWord 0b1001101010110000#16 = some (.sneVxVy 10 11) := by decide
theorem test_decode_ldINnn : decodeWord 0b1010000100100011#16 = some (.ldINnn 0x123#12) := by decide
theorem test_decode_jpV0Nnn : decodeWord 0b1011000100100011#16 = some (.jpV0Nnn 0x123#12) := by decide
theorem test_decode_rndVxNn : decodeWord 0b1100001111111111#16 = some (.rndVxNn 3 0xFF#8) := by decide
theorem test_decode_drwVxVyN : decodeWord 0b1101000100100101#16 = some (.drwVxVyN 1 2 5) := by decide
theorem test_decode_skpVx : decodeWord 0b1110010010011110#16 = some (.skpVx 4) := by decide
theorem test_decode_sknpVx : decodeWord 0b1110111110100001#16 = some (.sknpVx 15) := by decide
theorem test_decode_ldVxDt : decodeWord 0b1111001000000111#16 = some (.ldVxDt 2) := by decide
theorem test_decode_ldVxK : decodeWord 0b1111000100001010#16 = some (.ldVxK 1) := by decide
theorem test_decode_ldDtVx : decodeWord 0b1111001000010101#16 = some (.ldDtVx 2) := by decide
theorem test_decode_ldStVx : decodeWord 0b1111001100011000#16 = some (.ldStVx 3) := by decide
theorem test_decode_addIVx : decodeWord 0b1111001000011110#16 = some (.addIVx 2) := by decide
theorem test_decode_ldFVx : decodeWord 0b1111010100101001#16 = some (.ldFVx 5) := by decide
theorem test_decode_ldBVx : decodeWord 0b1111101000110011#16 = some (.ldBVx 10) := by decide
theorem test_decode_ldMemVx : decodeWord 0b1111001001010101#16 = some (.ldMemVx 2) := by decide
theorem test_decode_ldVxMem : decodeWord 0b1111111101100101#16 = some (.ldVxMem 15) := by decide

theorem test_decode_unknown_5XY1 : decodeWord 0x5AB1#16 = none := by decide
theorem test_decode_unknown_8XY8 : decodeWord 0x8AB8#16 = none := by decide
theorem test_decode_rejects_by_name : decode [0x00, 0xE1] = .reject (.unknownOpcode 0x00E1#16) := by decide
theorem test_decode_truncated : decode [0x60] = .reject .truncated := by decide
theorem test_decodeTableWord_big_endian : decodeTableWord 16 0xD125 = some (.drwVxVyN 1 2 5) := by decide
theorem test_withFetchWord_runs_first :
    fetchedInstr (State.reset.withFetchWord 16 0x6A9C) = some (.ldVxNn 10 0x9C#8) := by decide

/-! ### One cycle of each instruction -/

-- DR1
theorem test_cls : holdsAfter (cycle 0 (putAt 0x200 0x00E0#16 (withCell 63 31 (withCell 5 5 State.reset))))
    (fun t => t.fb == Framebuffer.blank && t.drawReq && t.pc == 0x202) = true := by decide
-- CF1
theorem test_ret : holdsAfter (cycle 0 (putAt 0x212 0x00EE#16 ({ State.reset with sp := 1, stack := State.reset.stack.set 0 0x206 })))
    (fun t => t.pc == 0x206 && t.sp == 0) = true := by decide
-- CF2
theorem test_ret_underflow : holdsAfter (cycle 0 (putAt 0x200 0x00EE#16 State.reset))
    (fun t => t.err == some .stackUnderflow && t.sp == 0 && t.pc == 0x202) = true := by decide
-- CF3
theorem test_jp : holdsAfter (cycle 0 (putAt 0x200 0x1ABC#16 State.reset))
    (fun t => t.pc == 0xABC) = true := by decide
-- CF6
theorem test_call : holdsAfter (cycle 0 (putAt 0x204 0x2210#16 State.reset))
    (fun t => t.stack[0] == 0x206 && t.sp == 1 && t.pc == 0x210) = true := by decide
-- CF7
theorem test_call_overflow : holdsAfter (cycle 0 (putAt 0x200 0x2300#16 ({ State.reset with sp := 16, stack := Vector.replicate 16 0x111 })))
    (fun t => t.err == some .stackOverflow && t.sp == 16 && t.stack[15] == 0x111 && t.pc == 0x202) = true := by decide
-- CF9a
theorem test_se_nn : holdsAfter (cycle 0 (putAt 0x200 0x3A05#16 (withV [(10, 5)] State.reset)))
    (fun t => t.pc == 0x204) = true := by decide
-- CF9b
theorem test_se_nn_not : holdsAfter (cycle 0 (putAt 0x200 0x3A05#16 (withV [(10, 6)] State.reset)))
    (fun t => t.pc == 0x202) = true := by decide
-- CF10b
theorem test_sne_nn : holdsAfter (cycle 0 (putAt 0x200 0x4A05#16 (withV [(10, 6)] State.reset)))
    (fun t => t.pc == 0x204) = true := by decide
-- CF11a
theorem test_se_vy : holdsAfter (cycle 0 (putAt 0x300 0x5120#16 (withV [(1, 0x7F), (2, 0x7F)] State.reset)))
    (fun t => t.pc == 0x304) = true := by decide
-- CF12a
theorem test_sne_vy : holdsAfter (cycle 0 (putAt 0x300 0x9120#16 (withV [(1, 1), (2, 2)] State.reset)))
    (fun t => t.pc == 0x304) = true := by decide
-- CF13b
theorem test_jp_v0 : holdsAfter (cycle 0 (putAt 0x200 0xBFFF#16 (withV [(0, 0xFF)] State.reset)))
    (fun t => t.pc == 0x10FE) = true := by decide
-- A2
theorem test_ld_nn : holdsAfter (cycle 0 (putAt 0x200 0x6F07#16 State.reset))
    (fun t => t.getV 15 == 7 && t.pc == 0x202) = true := by decide
-- A4
theorem test_add_nn_wraps : holdsAfter (cycle 0 (putAt 0x200 0x7001#16 (withV [(0, 0xFF), (15, 1)] State.reset)))
    (fun t => t.getV 0 == 0 && t.getV 15 == 1 && t.pc == 0x202) = true := by decide
-- A6
theorem test_ld_vy : holdsAfter (cycle 0 (putAt 0x200 0x8120#16 (withV [(2, 0x33), (15, 1)] State.reset)))
    (fun t => t.getV 1 == 0x33 && t.getV 15 == 1 && t.pc == 0x202) = true := by decide
-- A7
theorem test_or : holdsAfter (cycle 0 (putAt 0x200 0x8121#16 (withV [(1, 0xF0), (2, 0x0F), (15, 1)] State.reset)))
    (fun t => t.getV 1 == 0xFF && t.getV 15 == 1 && t.pc == 0x202) = true := by decide
-- A8
theorem test_and : holdsAfter (cycle 0 (putAt 0x200 0x8122#16 (withV [(1, 0xF0), (2, 0x3C), (15, 1)] State.reset)))
    (fun t => t.getV 1 == 0x30 && t.getV 15 == 1 && t.pc == 0x202) = true := by decide
-- A9
theorem test_xor : holdsAfter (cycle 0 (putAt 0x200 0x8123#16 (withV [(1, 0xFF), (2, 0x0F), (15, 1)] State.reset)))
    (fun t => t.getV 1 == 0xF0 && t.getV 15 == 1 && t.pc == 0x202) = true := by decide
-- A10
theorem test_add_carry : holdsAfter (cycle 0 (putAt 0x200 0x8124#16 (withV [(1, 200), (2, 100)] State.reset)))
    (fun t => t.getV 1 == 44 && t.getV 15 == 1 && t.pc == 0x202) = true := by decide
-- A15
theorem test_add_flag_wins : holdsAfter (cycle 0 (putAt 0x200 0x8F14#16 (withV [(15, 3), (1, 4)] State.reset)))
    (fun t => t.getV 15 == 0 && t.pc == 0x202) = true := by decide
-- A18
theorem test_sub_borrow : holdsAfter (cycle 0 (putAt 0x200 0x8125#16 (withV [(1, 5), (2, 7)] State.reset)))
    (fun t => t.getV 1 == 0xFE && t.getV 15 == 0 && t.pc == 0x202) = true := by decide
-- A23
theorem test_sub_old_vf : holdsAfter (cycle 0 (putAt 0x200 0x81F5#16 (withV [(1, 5), (15, 1)] State.reset)))
    (fun t => t.getV 1 == 4 && t.getV 15 == 1 && t.pc == 0x202) = true := by decide
-- A27
theorem test_shr_ignores_y : holdsAfter (cycle 0 (putAt 0x200 0x8126#16 (withV [(1, 4), (2, 0xFF)] State.reset)))
    (fun t => t.getV 1 == 2 && t.getV 15 == 0 && t.getV 2 == 0xFF && t.pc == 0x202) = true := by decide
-- A24
theorem test_shr_low_bit : holdsAfter (cycle 0 (putAt 0x200 0x8106#16 (withV [(1, 5)] State.reset)))
    (fun t => t.getV 1 == 2 && t.getV 15 == 1 && t.pc == 0x202) = true := by decide
-- A30
theorem test_subn : holdsAfter (cycle 0 (putAt 0x200 0x8127#16 (withV [(1, 5), (2, 7)] State.reset)))
    (fun t => t.getV 1 == 2 && t.getV 15 == 1 && t.pc == 0x202) = true := by decide
-- A32
theorem test_subn_equal : holdsAfter (cycle 0 (putAt 0x200 0x8127#16 (withV [(1, 9), (2, 9)] State.reset)))
    (fun t => t.getV 1 == 0 && t.getV 15 == 1 && t.pc == 0x202) = true := by decide
-- A33
theorem test_shl_high_bit : holdsAfter (cycle 0 (putAt 0x200 0x810E#16 (withV [(1, 0x81)] State.reset)))
    (fun t => t.getV 1 == 2 && t.getV 15 == 1 && t.pc == 0x202) = true := by decide
-- A36
theorem test_shl_vf : holdsAfter (cycle 0 (putAt 0x200 0x8FFE#16 (withV [(15, 0x80)] State.reset)))
    (fun t => t.getV 15 == 1 && t.pc == 0x202) = true := by decide
-- A40
theorem test_rnd : holdsAfter (cycle 0xA7 (putAt 0x200 0xC10F#16 State.reset))
    (fun t => t.getV 1 == 0x07 && t.pc == 0x202) = true := by decide
-- DR15
theorem test_drw_wraps : holdsAfter (cycle 0 (putAt 0x200 0xD122#16 ({ (withMem 0x300 [0xFF, 0x81] (withV [(1, 60), (2, 31)] State.reset)) with i := 0x300 })))
    (fun t => t.fb.cell 60 31 && t.fb.cell 3 31 && !t.fb.cell 4 31 && t.fb.cell 60 0 && t.fb.cell 3 0 && !t.fb.cell 61 0 && t.getV 15 == 0 && t.drawReq && t.pc == 0x202) = true := by decide
-- DR10
theorem test_drw_collision : holdsAfter (cycle 0 (putAt 0x200 0xD125#16 (withCell 0 0 State.reset)))
    (fun t => !t.fb.cell 0 0 && t.fb.cell 3 0 && t.getV 15 == 1 && t.pc == 0x202) = true := by decide
-- K3
theorem test_skp_low_nibble : holdsAfter (cycle 0 (putAt 0x206 0xE19E#16 ({ (withV [(1, 0x17)] State.reset) with key := State.reset.key.set 7 true })))
    (fun t => t.pc == 0x20A) = true := by decide
-- K4
theorem test_sknp : holdsAfter (cycle 0 (putAt 0x206 0xE1A1#16 ({ (withV [(1, 7)] State.reset) with key := State.reset.key.set 7 true })))
    (fun t => t.pc == 0x208) = true := by decide
-- T1
theorem test_ld_dt : holdsAfter (cycle 0 (putAt 0x200 0xF207#16 (State.reset.setDt 9)))
    (fun t => t.getV 2 == 9 && t.dt == 8 && t.pc == 0x202) = true := by decide
-- K9, its first step
theorem test_key_wait : holdsAfter (cycle 0 (putAt 0x204 0xF10A#16 ((withV [(1, 0x55)] State.reset).setDt 5)))
    (fun t => t.pc == 0x204 && t.getV 1 == 0x55 && t.dt == 4) = true := by decide
-- K10
theorem test_key_lowest : holdsAfter (cycle 0 (putAt 0x204 0xF10A#16 ({ State.reset with key := (State.reset.key.set 3 true).set 9 true })))
    (fun t => t.getV 1 == 3 && t.pc == 0x206) = true := by decide
-- T3
theorem test_set_dt : holdsAfter (cycle 0 (putAt 0x200 0xF215#16 (withV [(2, 10)] State.reset)))
    (fun t => t.dt == 9 && t.pc == 0x202) = true := by decide
-- T7
theorem test_set_st_beeps : holdsAfter (cycle 0 (putAt 0x200 0xF318#16 (withV [(3, 1)] State.reset)))
    (fun t => t.st == 0 && t.beepReq && t.pc == 0x202) = true := by decide
-- T8
theorem test_set_st_zero_no_beep : holdsAfter (cycle 0 (putAt 0x200 0xF318#16 ((withV [(3, 0)] State.reset).setSt 1)))
    (fun t => t.st == 0 && !t.beepReq && t.pc == 0x202) = true := by decide
-- I5
theorem test_add_i_overflow : holdsAfter (cycle 0 (putAt 0x200 0xF21E#16 ((withV [(2, 1)] State.reset).setI 0xFFF)))
    (fun t => t.i == 0x1000 && t.getV 15 == 1 && t.pc == 0x202) = true := by decide
-- I9
theorem test_add_i_old_vf : holdsAfter (cycle 0 (putAt 0x200 0xFF1E#16 ((withV [(15, 1)] State.reset).setI 0x300)))
    (fun t => t.i == 0x301 && t.getV 15 == 0 && t.pc == 0x202) = true := by decide
-- I2
theorem test_ld_i : holdsAfter (cycle 0 (putAt 0x200 0xAFFF#16 (withV [(15, 1)] State.reset)))
    (fun t => t.i == 0xFFF && t.getV 15 == 1 && t.pc == 0x202) = true := by decide
-- I11
theorem test_glyph_low_nibble : holdsAfter (cycle 0 (putAt 0x200 0xF029#16 (withV [(0, 0x1A)] State.reset)))
    (fun t => t.i == 0x32 && t.pc == 0x202) = true := by decide
-- I14
theorem test_bcd_156 : holdsAfter (cycle 0 (putAt 0x200 0xFA33#16 ((withV [(10, 156)] State.reset).setI 0x300)))
    (fun t => t.mem.read 0x300 == 1 && t.mem.read 0x301 == 5 && t.mem.read 0x302 == 6 && t.i == 0x300 && t.pc == 0x202) = true := by decide
-- I19
theorem test_bcd_out_of_bounds : holdsAfter (cycle 0 (putAt 0x200 0xFA33#16 ((withV [(10, 123)] State.reset).setI 0xFFE)))
    (fun t => t.err == some (.memoryOutOfBounds 0x1000) && t.mem.read 0xFFE == 0 && t.pc == 0x202) = true := by decide
-- I20
theorem test_store_registers : holdsAfter (cycle 0 (putAt 0x200 0xF255#16 ((withV [(0, 1), (1, 5), (2, 6), (3, 7)] State.reset).setI 0x400)))
    (fun t => t.mem.read 0x400 == 1 && t.mem.read 0x402 == 6 && t.mem.read 0x403 == 0 && t.i == 0x400 && t.pc == 0x202) = true := by decide
-- I25
theorem test_load_registers : holdsAfter (cycle 0 (putAt 0x200 0xF265#16 ((withMem 0x300 [1, 5, 6, 9] (withV [(3, 0x77)] State.reset)).setI 0x300)))
    (fun t => t.getV 0 == 1 && t.getV 2 == 6 && t.getV 3 == 0x77 && t.i == 0x300 && t.pc == 0x202) = true := by decide
-- I27
theorem test_load_out_of_bounds : holdsAfter (cycle 0 (putAt 0x200 0xF165#16 ((withMem 0xFFF [0x5A] (withV [(0, 1), (1, 2)] State.reset)).setI 0xFFF)))
    (fun t => t.getV 0 == 1 && t.err == some (.memoryOutOfBounds 0x1000) && t.pc == 0x202) = true := by decide
-- T10
theorem test_unknown_word : holdsAfter (cycle 0 (putAt 0x200 0x0000#16 ((State.reset.setDt 3).setSt 1)))
    (fun t => t.err == some (.unknownOpcode 0) && t.dt == 2 && t.beepReq && t.pc == 0x202) = true := by decide
-- T11
theorem test_fetch_error : holdsAfter (cycle 0 (((State.reset.setPc 0xFFF).setDt 255).setSt 1))
    (fun t => t.err == some (.memoryOutOfBounds 0x1000) && t.pc == 0xFFF && t.dt == 254 && t.beepReq) = true := by decide

/-! ### The host's operations -/

-- H3, its first load
theorem test_load_image : holdsAfter (hostMove (.load [1, 2, 3, 4]) State.reset)
    (fun t => t.mem.read 0x200 == 1 && t.mem.read 0x203 == 4 && t.mem.read 0x204 == 0 && t.pc == 0x200) = true := by
  decide
-- H7
theorem test_setKey : (setKey 7 true State.reset).keyDown 7 = true := by decide
-- H8, H9
theorem test_clear_requests :
    (clearBeepRequest { State.reset with beepReq := true }).beepReq = false ∧
      (clearDrawRequest { State.reset with drawReq := true }).drawReq = false := by decide
-- R56, glyphs 3 and F
theorem test_reset_font : State.reset.mem.readBytes 0x00F 5 = [0xF0, 0x10, 0xF0, 0x10, 0xF0] ∧
    State.reset.mem.readBytes 0x04B 6 = [0xF0, 0x80, 0xF0, 0x80, 0x80, 0x00] := by decide
-- log 12: a byte written back to its reset value is no longer listed
theorem test_memory_canonical : (Memory.write (Memory.write [] 0x300 7) 0x300 0) = [] := by decide

/-! ### Witnesses: concrete states and operands that meet the hypotheses of each statement -/

/-- A state with one instruction placed at `PC`. -/
def ready (w : Word) : State := placeWord State.reset w

theorem witness_DecodeAfterEncodeIsIdentity :
    (Instr.shrVx 15 3).wellFormed = true ∧ (Instr.ldINnn 0xFFF#12).wellFormed = true := by decide
theorem witness_EncodeAfterDecodeIsIdentity :
    decodeWord 0x8F36#16 = some (.shrVx 15 3) := by decide
theorem witness_DecodeFollowsMaskAndMatch :
    (Instr.drwVxVyN 1 2 0).wellFormed = true ∧ 0xD120#16 &&& rowMask (.drwVxVyN 1 2 0) = rowMatch (.drwVxVyN 1 2 0) := by decide
theorem witness_StepRunsDecodedInstruction :
    (Instr.ldVxNn 10 0x9C#8).wellFormed = true ∧ (putAt 0xFFE 0x6A9C#16 State.reset).pc.toNat ≤ 0xFFE ∧
    decode [(putAt 0xFFE 0x6A9C#16 State.reset).mem.read (putAt 0xFFE 0x6A9C#16 State.reset).pc.toNat,
      (putAt 0xFFE 0x6A9C#16 State.reset).mem.read ((putAt 0xFFE 0x6A9C#16 State.reset).pc.toNat + 1)] =
      .instr (.ldVxNn 10 0x9C#8) [] := by decide
theorem witness_StepRunsDecodedInstruction_next :
    ∃ t, exec (.ldVxNn 10 0x9C#8) (ready 0x6A9C#16).stepStart = .next t := ⟨_, rfl⟩
theorem witness_FetchReadsTwoBytesBigEndian :
    (State.reset.setPc 0xFFE#16).pc.toNat ≤ 0xFFE ∧ 0xFFE < (State.reset.setPc 0xFFF#16).pc.toNat := by decide
theorem witness_DelayTimerCountsEveryStep :
    fetchedInstr (ready 0xF215#16) = some (.ldDtVx 2) ∧ ∃ t, step (ready 0xF215#16) = .next t := ⟨by decide, _, rfl⟩
theorem witness_DelayTimerCountsEveryStep_other :
    (∀ x, fetchedInstr (ready 0xF10A#16) ≠ some (.ldDtVx x)) ∧ ∃ t, step (ready 0xF10A#16) = .next t := ⟨by decide, _, rfl⟩
theorem witness_SoundTimerCountsAndBeeps :
    fetchedInstr (ready 0xF318#16) = some (.ldStVx 3) ∧ ∃ t, step (ready 0xF318#16) = .next t := ⟨by decide, _, rfl⟩
theorem witness_SoundTimerCountsAndBeeps_other :
    (∀ x, fetchedInstr (ready 0xF215#16) ≠ some (.ldStVx x)) ∧ ∃ t, step (ready 0xF215#16) = .next t := ⟨by decide, _, rfl⟩
theorem witness_FetchErrorRepeatsForever :
    0xFFE < (State.reset.setPc 0xFFF#16).pc.toNat ∧ 0xFFE < (State.reset.setPc 0x10FE#16).pc.toNat := by decide
theorem witness_UnknownWordIsReportedAndSkipped :
    fetch State.reset = .ok 0#16 ∧ decodeWord 0#16 = none := ⟨rfl, by decide⟩
theorem witness_ReportedErrorsHaveNoOtherEffect :
    ∃ t, step (ready 0x00EE#16) = .next t ∧ t.err = some .stackUnderflow ∧
      (ready 0x00EE#16).pc.toNat ≤ 0xFFE ∧ fetchedInstr (ready 0x00EE#16) = some .ret := ⟨_, rfl, by decide, by decide, by decide⟩
theorem witness_ReportedErrorsHaveNoOtherEffect_fetch :
    ∃ t, step (State.reset.setPc 0xFFF#16) = .next t ∧ t.err = some (.memoryOutOfBounds 0x1000) ∧
      0xFFE < (State.reset.setPc 0xFFF#16).pc.toNat := ⟨_, rfl, by decide, by decide⟩
theorem witness_DataOutOfBoundsIsReported_draw :
    ∃ x y n, Instr.drwVxVyN 1 2 3 = .drwVxVyN x y n ∧ 0 < n.val ∧
      0x1000 = (State.reset.setI 0xFFE#16).i.toNat + n.val - 1 := ⟨1, 2, 3, by decide⟩
theorem witness_DataOutOfBoundsIsReported_digits :
    ∃ x, Instr.ldBVx 10 = .ldBVx x ∧ 0x1000 = (State.reset.setI 0xFFE#16).i.toNat + 2 := ⟨10, by decide⟩
theorem witness_DataOutOfBoundsIsReported_store :
    ∃ x, Instr.ldMemVx 15 = .ldMemVx x ∧ 0x1000 = (State.reset.setI 0xFF1#16).i.toNat + x.val := ⟨15, by decide⟩
theorem witness_DataOutOfBoundsIsReported_load :
    ∃ x, Instr.ldVxMem 0 = .ldVxMem x ∧ 0xFFFF = (State.reset.setI 0xFFFF#16).i.toNat + x.val := ⟨0, by decide⟩
theorem witness_StepsKeepMemoryCanonical :
    MemoryCanonical State.reset ∧ (∃ t, step State.reset = .next t) ∧ ∃ t, hostMove (.load [1]) State.reset = .next t := ⟨rfl, ⟨_, rfl⟩, _, rfl⟩
theorem witness_StepsKeepPcInRange :
    PcInRange (State.reset.setPc 0x10FE#16) ∧ (∃ t, step (State.reset.setPc 0x10FE#16) = .next t) ∧
    ∃ t, hostMove .reset (State.reset.setPc 0x10FE#16) = .next t := ⟨⟨by decide, by decide⟩, ⟨_, rfl⟩, _, rfl⟩
theorem witness_KeysAreWrittenByTheHostAlone :
    (∃ t, exec (.skpVx 1) State.reset = .next t) ∧ (∃ t, step State.reset = .next t) ∧
    State.reset.keyDown 15 = false ∧ (∃ t, hostMove (.load [1]) State.reset = .next t) ∧
    HostMove.load [1] ≠ .reset ∧ ∀ k p, HostMove.load [1] ≠ .setKey k p := ⟨⟨_, rfl⟩, ⟨_, rfl⟩, by decide, ⟨_, rfl⟩, by decide, (by intro k p h; cases h)⟩
theorem witness_OnlyCallAndReturnTouchTheStack :
    (∃ t, exec .cls State.reset = .next t) ∧ Instr.cls ≠ .ret ∧ ∀ nnn, Instr.cls ≠ .callNnn nnn := ⟨⟨_, rfl⟩, by decide, (by intro n h; cases h)⟩
theorem witness_OnlyDrawingTouchesTheDisplay :
    (∃ t, exec .ret State.reset = .next t) ∧ Instr.ret ≠ .cls ∧ ∀ x y n, Instr.ret ≠ .drwVxVyN x y n := ⟨⟨_, rfl⟩, by decide, (by intro x y n h; cases h)⟩
theorem witness_OnlyStoresWriteMemory :
    (∃ t, exec (.ldVxMem 3) State.reset = .next t) ∧ (∀ x, Instr.ldVxMem 3 ≠ .ldBVx x) ∧
    (∀ x, Instr.ldVxMem 3 ≠ .ldMemVx x) ∧ 0x1000 ≤ 0x1000 ∧ ∃ t, exec (.ldMemVx 15) (State.reset.setI 0xFF0#16) = .next t := ⟨⟨_, rfl⟩, (by intro x h; cases h), (by intro x h; cases h), by decide, _, rfl⟩
theorem witness_OnlyIndexInstructionsWriteIndex :
    (∃ t, exec (.ldMemVx 3) (State.reset.setI 0x300#16) = .next t) ∧ (∀ n, Instr.ldMemVx 3 ≠ .ldINnn n) ∧
    (∀ x, Instr.ldMemVx 3 ≠ .addIVx x) ∧ ∀ x, Instr.ldMemVx 3 ≠ .ldFVx x := ⟨⟨_, rfl⟩, (by intro x h; cases h), (by intro x h; cases h), (by intro x h; cases h)⟩
theorem witness_RegistersWrittenAreTheTables :
    ∃ t, exec (.drwVxVyN 1 2 5) State.reset = .next t := ⟨_, rfl⟩
theorem witness_CallPushesReturnAddress :
    State.reset.sp.val < 16 ∧ ({ State.reset with sp := 15 } : State).sp.val < 16 ∧
    ({ State.reset with sp := 16 } : State).sp.val = 16 := by decide
theorem witness_ReturnPopsAddress :
    ({ State.reset with sp := 16 } : State).sp.val = (15 : Fin 16).val + 1 ∧
    ({ State.reset with sp := 1 } : State).sp.val = (0 : Fin 16).val + 1 ∧ State.reset.sp.val = 0 := by decide
theorem witness_ReturnComesBackAfterTheCall :
    State.reset.sp.val < 16 ∧ ∃ t, exec (.callNnn 0x210#12) State.reset = .next t ∧
    ∃ u : State, u.stack = t.stack ∧ u.sp = t.sp := ⟨by decide, _, rfl, _, rfl, rfl⟩
theorem witness_SeventeenthNestedCallOverflows :
    State.reset.sp.val = 0 := by decide
theorem witness_ConditionalSkipsAddFourOrTwo :
    fieldFamily 0x3A05#16 = 0x3 ∧ fieldFamily 0x4A05#16 = 0x4 ∧ fieldFamily 0x5120#16 = 0x5 ∧ fieldFamily 0x9120#16 = 0x9 := by decide
theorem witness_JumpGoesToTarget :
    fieldFamily 0x1FFF#16 = 0x1 ∧ fieldNNN 0x1FFF#16 = 0xFFF#12 := by decide
theorem witness_LoadImmediateWritesByte :
    fieldFamily 0x6F07#16 = 0x6 := by decide
theorem witness_AddImmediateWrapsWithoutFlag :
    fieldFamily 0x7FFF#16 = 0x7 := by decide
theorem witness_RandomByteIsMasked :
    fetchedInstr (ready 0xC10F#16) = some (.rndVxNn 1 0x0F#8) ∧ (∃ t, step (ready 0xC10F#16) = .next t) ∧
    (0x0F#8).getLsbD 7 = false := ⟨by decide, ⟨_, rfl⟩, by decide⟩
theorem witness_DrawInvertsTheCoveredCells :
    ((0 : Nibble).val = 0 ∨ (State.reset.setI 0xFFFF#16).i.toNat + (0 : Nibble).val ≤ 0x1000) ∧
    ((15 : Nibble).val = 0 ∨ (State.reset.setI 0xFF1#16).i.toNat + (15 : Nibble).val ≤ 0x1000) := by decide
theorem witness_DrawInvertsTheCoveredCells_hit :
    spriteHits (withCell 0 0 State.reset) 0 0 5 := ⟨0, 0, by decide, by decide, by decide, by decide⟩
theorem witness_DrawTwiceRestoresTheDisplay :
    ((5 : Nibble).val = 0 ∨ State.reset.i.toNat + (5 : Nibble).val ≤ 0x1000) ∧
    ∃ t, exec (.drwVxVyN 1 2 5) State.reset = .next t ∧ t.getV 1 = State.reset.getV 1 ∧ t.getV 2 = State.reset.getV 2 ∧
      ∃ u, exec (.drwVxVyN 1 2 5) t = .next u := ⟨by decide, _, rfl, by decide, by decide, _, rfl⟩
theorem witness_KeySkipsReadTheLowNibble :
    (7 : Fin 16).val = ((State.reset.setV 1 0x17).getV 1).toNat % 16 ∧
    (15 : Fin 16).val = ((State.reset.setV 1 0xFF).getV 1).toNat % 16 := by decide
theorem witness_KeyWaitTakesTheLowestKey :
    (setKey 9 true (setKey 3 true State.reset)).keyDown 3 = true ∧
    (∀ j : Fin 16, j < 3 → (setKey 9 true (setKey 3 true State.reset)).keyDown j = false) ∧
    ∀ k : Fin 16, State.reset.keyDown k = false := by decide
theorem witness_KeyWaitHoldsForAnyNumberOfSteps :
    fetchedInstr (ready 0xF10A#16) = some (.ldVxK 1) ∧ ∀ k : Fin 16, (ready 0xF10A#16).keyDown k = false := by decide
theorem witness_JumpToItselfRunsForever :
    fetchedInstr (ready 0x1200#16) = some (.jpNnn 0x200#12) ∧ (ready 0x1200#16).pc.toNat = (0x200#12).toNat := by decide
theorem witness_TimerInstructionsMoveTimers :
    fieldFamily 0xF207#16 = 0xF ∧ fieldNN 0xF207#16 = 0x07#8 ∧ fieldFamily 0xF215#16 = 0xF ∧ fieldNN 0xF215#16 = 0x15#8 ∧
    fieldFamily 0xF318#16 = 0xF ∧ fieldNN 0xF318#16 = 0x18#8 := by decide
theorem witness_TimerInstructionsMoveTimers_noRead :
    (∀ x, Instr.ldVxDt 2 ≠ .ldStVx x) ∧ ∃ t, exec (.ldVxDt 2) State.reset = .next t := ⟨by decide, _, rfl⟩
theorem witness_HostFlagsAreInvisibleToPrograms :
    (∃ t, exec (.ldVxDt 2) State.reset = .next t) ∧
    ∃ t, exec (.ldVxDt 2) { State.reset with st := 9, drawReq := true, beepReq := true } = .next t := ⟨⟨_, rfl⟩, _, rfl⟩
theorem witness_StoreDecimalDigits :
    (State.reset.setI 0xFFD#16).i.toNat + 2 ≤ 0xFFF := by decide
theorem witness_StoreRegistersWritesTheRun :
    (State.reset.setI 0xFF0#16).i.toNat + (15 : Reg).val ≤ 0xFFF := by decide
theorem witness_LoadRegistersReadsTheRun :
    (State.reset.setI 0xFFF#16).i.toNat + (0 : Reg).val ≤ 0xFFF := by decide
theorem witness_StoreThenLoadGivesRegistersBack :
    (State.reset.setI 0x400#16).i.toNat + (2 : Reg).val ≤ 0xFFF ∧
    ∃ t, exec (.ldMemVx 2) (State.reset.setI 0x400#16) = .next t ∧ ∃ u : State, u.mem = t.mem ∧ u.i = t.i := ⟨by decide, _, rfl, _, rfl, rfl⟩
theorem witness_StoreIsSeenByTheNextFetch :
    (State.reset.setI 0x208#16).i.toNat + (1 : Reg).val ≤ 0xFFF ∧ (0 : Reg) < 1 ∧
    ∃ t, exec (.ldMemVx 1) (State.reset.setI 0x208#16) = .next t ∧
      ∃ u : State, u.mem = t.mem ∧ u.pc.toNat = (State.reset.setI 0x208#16).i.toNat + (0 : Reg).val := ⟨by decide, by decide, _, rfl, State.setPc _ 0x208#16, rfl, rfl⟩
theorem witness_LoadCopiesTheImage :
    (List.replicate 3584 (0xAB : Byte)).length ≤ 3584 ∧ ([] : List Byte).length ≤ 3584 := ⟨by rw [List.length_replicate], by decide⟩
theorem witness_TooLargeImageChangesNothing :
    3584 < (List.replicate 3585 (0xAB : Byte)).length := by rw [List.length_replicate]; decide
theorem witness_DrawRequestIsClearedByTheHostAlone :
    ∃ t, step ({ ready 0x00E0#16 with drawReq := true } : State) = .next t := ⟨_, rfl⟩
theorem witness_DrawRequestIsClearedByTheHostAlone_raise :
    ∃ t, step (ready 0x00E0#16) = .next t ∧ (ready 0x00E0#16).drawReq = false ∧ t.drawReq = true := ⟨_, rfl, by decide, by decide⟩
theorem witness_BeepRequestIsClearedByTheHostAlone :
    ∃ t, step ({ State.reset with beepReq := true } : State) = .next t := ⟨_, rfl⟩

end Sys2Proof.Tests
end

/-! PROOFS. The machine never halts (R7, R99): no instruction ends in a fault or a refusal, whichever way its test goes,
and the cycle adds only next states around the execute phase. -/

namespace Sys2Proof.Machine

/-! ### The instructions whose meaning branches: each outcome is a next state -/

theorem exec_ret_answers_next (s : State) : ∃ t, exec .ret s = .next t := by
  by_cases h : 0 < s.sp.val
  · exact ⟨_, exec_ret_pop s h⟩
  · exact ⟨_, exec_ret_empty s (by omega)⟩

theorem exec_callNnn_answers_next (nnn : Addr12) (s : State) : ∃ t, exec (.callNnn nnn) s = .next t := by
  by_cases h : s.sp.val < 16
  · exact ⟨_, exec_callNnn_push s nnn h⟩
  · exact ⟨_, exec_callNnn_full s nnn (by omega)⟩

theorem exec_drwVxVyN_answers_next (x y : Reg) (n : Nibble) (s : State) :
    ∃ t, exec (.drwVxVyN x y n) s = .next t := by
  by_cases h : n.val = 0 ∨ s.i.toNat + n.val ≤ Config.memSize
  · exact ⟨_, exec_drwVxVyN_ok s x y n h⟩
  · exact ⟨_, exec_drwVxVyN_error s x y n (by omega) (by omega)⟩

theorem exec_ldVxK_answers_next (x : Reg) (s : State) : ∃ t, exec (.ldVxK x) s = .next t := by
  cases h : s.pickKey with
  | some k => exact ⟨_, exec_ldVxK_some s x h⟩
  | none => exact ⟨_, exec_ldVxK_none s x (s.pickKey_none.1 h)⟩

theorem exec_ldBVx_answers_next (x : Reg) (s : State) : ∃ t, exec (.ldBVx x) s = .next t := by
  by_cases h : s.i.toNat + 3 ≤ Config.memSize
  · exact ⟨_, exec_ldBVx_ok s x h⟩
  · exact ⟨_, exec_ldBVx_error s x (by omega)⟩

theorem exec_ldMemVx_answers_next (x : Reg) (s : State) : ∃ t, exec (.ldMemVx x) s = .next t := by
  by_cases h : s.i.toNat + (x.val + 1) ≤ Config.memSize
  · exact ⟨_, exec_ldMemVx_ok s x h⟩
  · exact ⟨_, exec_ldMemVx_error s x (by omega)⟩

theorem exec_ldVxMem_answers_next (x : Reg) (s : State) : ∃ t, exec (.ldVxMem x) s = .next t := by
  by_cases h : s.i.toNat + (x.val + 1) ≤ Config.memSize
  · exact ⟨_, exec_ldVxMem_ok s x h⟩
  · exact ⟨_, exec_ldVxMem_error s x (by omega)⟩

/-! ### Every instruction, every cycle, every step -/

/-- The instructions of the last case have one outcome each, so their meaning is a next state as it stands. -/
theorem exec_answers_next (i : Instr) (s : State) : ∃ t, exec i s = .next t := by
  cases i with
  | ret => exact exec_ret_answers_next s
  | callNnn nnn => exact exec_callNnn_answers_next nnn s
  | drwVxVyN x y n => exact exec_drwVxVyN_answers_next x y n s
  | ldVxK x => exact exec_ldVxK_answers_next x s
  | ldBVx x => exact exec_ldBVx_answers_next x s
  | ldMemVx x => exact exec_ldMemVx_answers_next x s
  | ldVxMem x => exact exec_ldVxMem_answers_next x s
  | cls | jpNnn | seVxNn | sneVxNn | seVxVy | ldVxNn | addVxNn | ldVxVy | orVxVy | andVxVy | xorVxVy | addVxVy
  | subVxVy | shrVx | subnVxVy | shlVx | sneVxVy | ldINnn | jpV0Nnn | rndVxNn | skpVx | sknpVx | ldVxDt | ldDtVx
  | ldStVx | addIVx | ldFVx => exact ⟨_, rfl⟩

/-- The timer update keeps a next state a next state, after an error of the fetch or the decoding as after an
instruction (R90, R99). -/
theorem cycle_answers_next (rnd : Byte) (s : State) : ∃ t, cycle rnd s = .next t := by
  obtain ⟨e, -, hc⟩ | ⟨w, -, -, hc⟩ | ⟨w, i, -, -, hc⟩ := cycle_cases rnd s
  · exact ⟨_, hc⟩
  · exact ⟨_, hc⟩
  · obtain ⟨t, ht⟩ := exec_answers_next i (s.beginCycle rnd)
    exact ⟨t.tick, by rw [hc, ht, thenTick_next]⟩

/-- A step is a cycle on the byte that the random source holds ready (D27). -/
theorem step_answers_next (s : State) : ∃ t, step s = .next t :=
  cycle_answers_next (Config.randomByte s.draws) s.takeDraw

/-- Settles O11: the execute phase answers a next state for each instruction, hence so does every cycle and every
step. -/
theorem everyStepAnswersNextState : Obligations.EveryStepAnswersNextState :=
  ⟨step_answers_next, cycle_answers_next, exec_answers_next⟩

end Sys2Proof.Machine

/-! PROOFS. The frame of each instruction: which components of the state its execution may write (R22 to R34, R94),
said once for all 34, with the inversion of the instructions whose meaning branches and of the cycle around them. -/

namespace Sys2Proof.Machine

/-! ### Agreement of states, component by component -/

theorem unchangedBut_iff {ps : List Part} {s t : State} :
    UnchangedBut ps s t ↔
      (.v ∉ ps → t.v = s.v) ∧ (.i ∉ ps → t.i = s.i) ∧ (.pc ∉ ps → t.pc = s.pc) ∧
      (.stack ∉ ps → t.stack = s.stack ∧ t.sp = s.sp) ∧ (.mem ∉ ps → ∀ a, t.mem.read a = s.mem.read a) ∧
      (.fb ∉ ps → t.fb = s.fb) ∧ (.dt ∉ ps → t.dt = s.dt) ∧ (.st ∉ ps → t.st = s.st) ∧
      (.key ∉ ps → t.key = s.key) ∧ (.drawReq ∉ ps → t.drawReq = s.drawReq) ∧
      (.beepReq ∉ ps → t.beepReq = s.beepReq) ∧ (.err ∉ ps → t.err = s.err) ∧
      (.rnd ∉ ps → t.rnd = s.rnd) ∧ (.draws ∉ ps → t.draws = s.draws) := by
  constructor
  · intro h
    exact ⟨h .v, h .i, h .pc, h .stack, h .mem, h .fb, h .dt, h .st, h .key, h .drawReq, h .beepReq, h .err, h .rnd,
      h .draws⟩
  · rintro ⟨hv, hi, hpc, hstack, hmem, hfb, hdt, hst, hkey, hdraw, hbeep, herr, hrnd, hdraws⟩ p
    cases p with
    | v => exact hv
    | i => exact hi
    | pc => exact hpc
    | stack => exact hstack
    | mem => exact hmem
    | fb => exact hfb
    | dt => exact hdt
    | st => exact hst
    | key => exact hkey
    | drawReq => exact hdraw
    | beepReq => exact hbeep
    | err => exact herr
    | rnd => exact hrnd
    | draws => exact hdraws

theorem UnchangedBut.mono {ps qs : List Part} {s t : State} (h : UnchangedBut ps s t) (hsub : ps ⊆ qs) :
    UnchangedBut qs s t :=
  fun p hp => h p fun hps => hp (hsub hps)

theorem AgreeOn.trans {p : Part} {s t u : State} (h : AgreeOn p s t) (h' : AgreeOn p t u) : AgreeOn p s u := by
  cases p with
  | stack => exact ⟨h'.1.trans h.1, h'.2.trans h.2⟩
  | mem => exact fun a => (h' a).trans (h a)
  | v | i | pc | fb | dt | st | key | drawReq | beepReq | err | rnd | draws => exact Eq.trans h' h

theorem UnchangedBut.trans {ps : List Part} {s t u : State} (h : UnchangedBut ps s t) (h' : UnchangedBut ps t u) :
    UnchangedBut ps s u :=
  fun p hp => (h p hp).trans (h' p hp)

/-! ### What the instructions whose meaning branches can do -/

theorem exec_ret_cases {s t : State} (h : exec .ret s = .next t) :
    (∃ h0 : 0 < s.sp.val, t = { s with
      sp := ⟨s.sp.val - 1, by have := s.sp.isLt; omega⟩
      pc := s.stack[s.sp.val - 1]'(by have := s.sp.isLt; omega) }) ∨
    (s.sp.val = 0 ∧ t = s.raise .stackUnderflow) := by
  by_cases h0 : 0 < s.sp.val
  · rw [exec_ret_pop s h0] at h
    cases h
    exact .inl ⟨h0, rfl⟩
  · rw [exec_ret_empty s (by omega)] at h
    cases h
    exact .inr ⟨by omega, rfl⟩

theorem exec_callNnn_cases {nnn : Addr12} {s t : State} (h : exec (.callNnn nnn) s = .next t) :
    (∃ h0 : s.sp.val < 16, t = { s with
      stack := s.stack.set s.sp.val (s.pc + 2#16)
      sp := ⟨s.sp.val + 1, by omega⟩
      pc := addrOperand nnn }) ∨
    (s.sp.val = 16 ∧ t = s.raise .stackOverflow) := by
  by_cases h0 : s.sp.val < 16
  · rw [exec_callNnn_push s nnn h0] at h
    cases h
    exact .inl ⟨h0, rfl⟩
  · rw [exec_callNnn_full s nnn (by omega)] at h
    cases h
    exact .inr ⟨by omega, rfl⟩

theorem exec_drwVxVyN_cases {x y : Reg} {n : Nibble} {s t : State} (h : exec (.drwVxVyN x y n) s = .next t) :
    ((n.val = 0 ∨ s.i.toNat + n.val ≤ Config.memSize) ∧
      t = drawSprite s x y (s.mem.readBytes s.i.toNat n.val)) ∨
    (0 < n.val ∧ Config.memSize < s.i.toNat + n.val ∧
      t = s.raise (.memoryOutOfBounds (max s.i.toNat Config.memSize))) := by
  by_cases h0 : n.val = 0 ∨ s.i.toNat + n.val ≤ Config.memSize
  · rw [exec_drwVxVyN_ok s x y n h0] at h
    cases h
    exact .inl ⟨h0, rfl⟩
  · rw [exec_drwVxVyN_error s x y n (by omega) (by omega)] at h
    cases h
    exact .inr ⟨by omega, by omega, rfl⟩

theorem exec_ldVxK_cases {x : Reg} {s t : State} (h : exec (.ldVxK x) s = .next t) :
    (∃ k, s.pickKey = some k ∧ t = (s.setV x (BitVec.ofNat 8 k.val)).advance) ∨
    ((∀ k : Fin 16, s.keyDown k = false) ∧ t = s) := by
  cases hk : s.pickKey with
  | some k =>
    rw [exec_ldVxK_some s x hk] at h
    cases h
    exact .inl ⟨k, rfl, rfl⟩
  | none =>
    have hup := s.pickKey_none.1 hk
    rw [exec_ldVxK_none s x hup] at h
    cases h
    exact .inr ⟨hup, rfl⟩

theorem exec_ldBVx_cases {x : Reg} {s t : State} (h : exec (.ldBVx x) s = .next t) :
    (s.i.toNat + 3 ≤ Config.memSize ∧
      t = (s.setMem (s.mem.writeBytes s.i.toNat (bcdDigits (s.getV x)))).advance) ∨
    (Config.memSize < s.i.toNat + 3 ∧ t = s.raise (.memoryOutOfBounds (max s.i.toNat Config.memSize))) := by
  by_cases h0 : s.i.toNat + 3 ≤ Config.memSize
  · rw [exec_ldBVx_ok s x h0] at h
    cases h
    exact .inl ⟨h0, rfl⟩
  · rw [exec_ldBVx_error s x (by omega)] at h
    cases h
    exact .inr ⟨by omega, rfl⟩

theorem exec_ldMemVx_cases {x : Reg} {s t : State} (h : exec (.ldMemVx x) s = .next t) :
    (s.i.toNat + (x.val + 1) ≤ Config.memSize ∧
      t = (s.setMem (s.mem.writeBytes s.i.toNat (lowRegisters s x))).advance) ∨
    (Config.memSize < s.i.toNat + (x.val + 1) ∧
      t = s.raise (.memoryOutOfBounds (max s.i.toNat Config.memSize))) := by
  by_cases h0 : s.i.toNat + (x.val + 1) ≤ Config.memSize
  · rw [exec_ldMemVx_ok s x h0] at h
    cases h
    exact .inl ⟨h0, rfl⟩
  · rw [exec_ldMemVx_error s x (by omega)] at h
    cases h
    exact .inr ⟨by omega, rfl⟩

theorem exec_ldVxMem_cases {x : Reg} {s t : State} (h : exec (.ldVxMem x) s = .next t) :
    (s.i.toNat + (x.val + 1) ≤ Config.memSize ∧
      t = (s.setLowV (s.mem.readBytes s.i.toNat (x.val + 1))).advance) ∨
    (Config.memSize < s.i.toNat + (x.val + 1) ∧
      t = s.raise (.memoryOutOfBounds (max s.i.toNat Config.memSize))) := by
  by_cases h0 : s.i.toNat + (x.val + 1) ≤ Config.memSize
  · rw [exec_ldVxMem_ok s x h0] at h
    exact .inl ⟨h0, (Host.Outcome.next.inj h).symm⟩
  · rw [exec_ldVxMem_error s x (by omega)] at h
    cases h
    exact .inr ⟨by omega, rfl⟩

/-! ### The frame of each instruction -/

/-- The components an instruction may write in phase 3: those of its effect and of the report of its error. -/
def writtenParts (i : Instr) : List Part :=
  match i with
  | .cls => [.fb, .drawReq, .pc]
  | .ret | .callNnn _ => [.stack, .pc, .err]
  | .jpNnn _ | .jpV0Nnn _ | .seVxNn _ _ | .sneVxNn _ _ | .seVxVy _ _ | .sneVxVy _ _ | .skpVx _ | .sknpVx _ => [.pc]
  | .ldVxNn _ _ | .addVxNn _ _ | .ldVxVy _ _ | .orVxVy _ _ | .andVxVy _ _ | .xorVxVy _ _ => [.v, .pc]
  | .addVxVy _ _ | .subVxVy _ _ | .shrVx _ _ | .subnVxVy _ _ | .shlVx _ _ | .rndVxNn _ _ => [.v, .pc]
  | .ldVxDt _ | .ldVxK _ => [.v, .pc]
  | .ldINnn _ | .ldFVx _ => [.i, .pc]
  | .addIVx _ => [.v, .i, .pc]
  | .drwVxVyN _ _ _ => [.v, .fb, .drawReq, .pc, .err]
  | .ldDtVx _ => [.dt, .pc]
  | .ldStVx _ => [.st, .pc]
  | .ldBVx _ | .ldMemVx _ => [.mem, .pc, .err]
  | .ldVxMem _ => [.v, .pc, .err]

/-- Phase 3 leaves every component alone that the instruction's row does not name (R94). -/
theorem exec_unchangedBut_writtenParts {i : Instr} {s t : State} (h : exec i s = .next t) :
    UnchangedBut (writtenParts i) s t := by
  cases i with
  | ret => obtain ⟨-, rfl⟩ | ⟨-, rfl⟩ := exec_ret_cases h <;> simp [unchangedBut_iff, writtenParts]
  | callNnn nnn => obtain ⟨-, rfl⟩ | ⟨-, rfl⟩ := exec_callNnn_cases h <;> simp [unchangedBut_iff, writtenParts]
  | drwVxVyN x y n =>
    obtain ⟨-, rfl⟩ | ⟨-, -, rfl⟩ := exec_drwVxVyN_cases h <;> simp [unchangedBut_iff, writtenParts, drawSprite]
  | ldVxK x => obtain ⟨k, -, rfl⟩ | ⟨-, rfl⟩ := exec_ldVxK_cases h <;> simp [unchangedBut_iff, writtenParts]
  | ldBVx x => obtain ⟨-, rfl⟩ | ⟨-, rfl⟩ := exec_ldBVx_cases h <;> simp [unchangedBut_iff, writtenParts]
  | ldMemVx x => obtain ⟨-, rfl⟩ | ⟨-, rfl⟩ := exec_ldMemVx_cases h <;> simp [unchangedBut_iff, writtenParts]
  | ldVxMem x => obtain ⟨-, rfl⟩ | ⟨-, rfl⟩ := exec_ldVxMem_cases h <;> simp [unchangedBut_iff, writtenParts]
  | seVxNn | sneVxNn | seVxVy | sneVxVy | skpVx | sknpVx =>
    cases h
    simp [unchangedBut_iff, writtenParts, State.skipIf_eq]
  | cls | jpNnn | ldVxNn | addVxNn | ldVxVy | orVxVy | andVxVy | xorVxVy | addVxVy | subVxVy | shrVx | subnVxVy
  | shlVx | ldINnn | jpV0Nnn | rndVxNn | ldVxDt | ldDtVx | ldStVx | addIVx | ldFVx =>
    cases h
    simp [unchangedBut_iff, writtenParts]

/-! ### Which rows of the frame name a component -/

theorem dt_mem_writtenParts {i : Instr} : .dt ∈ writtenParts i ↔ ∃ x, i = .ldDtVx x := by
  cases i <;> simp [writtenParts]

theorem st_mem_writtenParts {i : Instr} : .st ∈ writtenParts i ↔ ∃ x, i = .ldStVx x := by
  cases i <;> simp [writtenParts]

theorem stack_mem_writtenParts {i : Instr} : .stack ∈ writtenParts i ↔ i = .ret ∨ ∃ nnn, i = .callNnn nnn := by
  cases i <;> simp [writtenParts]

theorem mem_mem_writtenParts {i : Instr} :
    .mem ∈ writtenParts i ↔ (∃ x, i = .ldBVx x) ∨ ∃ x, i = .ldMemVx x := by
  cases i <;> simp [writtenParts]

theorem i_mem_writtenParts {i : Instr} :
    .i ∈ writtenParts i ↔ (∃ nnn, i = .ldINnn nnn) ∨ (∃ x, i = .addIVx x) ∨ ∃ x, i = .ldFVx x := by
  cases i <;> simp [writtenParts]

theorem fb_mem_writtenParts {i : Instr} : .fb ∈ writtenParts i ↔ i = .cls ∨ ∃ x y n, i = .drwVxVyN x y n := by
  cases i <;> simp [writtenParts]

theorem drawReq_mem_writtenParts {i : Instr} :
    .drawReq ∈ writtenParts i ↔ i = .cls ∨ ∃ x y n, i = .drwVxVyN x y n := by
  cases i <;> simp [writtenParts]

theorem key_notMem_writtenParts (i : Instr) : .key ∉ writtenParts i := by
  cases i <;> simp [writtenParts]

theorem beepReq_notMem_writtenParts (i : Instr) : .beepReq ∉ writtenParts i := by
  cases i <;> simp [writtenParts]

/-- Settles O21: no other row of the frame names the stack. -/
theorem onlyCallAndReturnTouchTheStack : Obligations.OnlyCallAndReturnTouchTheStack := by
  intro i s t h hret hcall
  exact exec_unchangedBut_writtenParts h .stack (by simp [stack_mem_writtenParts, hret, hcall])

/-! ### What a cycle can do -/

/-- Everything a cycle can end in: the timer update after a fetch error, after an unknown word, or after the fetched
instruction (R90). -/
theorem cycle_next_cases {rnd : Byte} {s t : State} (h : cycle rnd s = .next t) :
    (∃ e, 0xFFE < s.pc.toNat ∧ fetchedInstr s = none ∧ t = ((s.beginCycle rnd).report e).tick) ∨
    (∃ w, s.pc.toNat ≤ 0xFFE ∧ fetchedInstr s = none ∧
      t = ((s.beginCycle rnd).raise (.unknownOpcode w)).tick) ∨
    (∃ i u, s.pc.toNat ≤ 0xFFE ∧ fetchedInstr s = some i ∧ exec i (s.beginCycle rnd) = .next u ∧ t = u.tick) := by
  have hfetch : fetch (s.beginCycle rnd) = fetch s := rfl
  have hbound : (∃ w, fetch s = .ok w) → s.pc.toNat ≤ 0xFFE := by
    rintro ⟨w, hw⟩
    obtain ⟨hb, -⟩ | ⟨-, he⟩ := fetch_cases s
    · simp only [Config.memSize] at hb
      omega
    · cases hw.symm.trans he
  obtain ⟨e, hf, hc⟩ | ⟨w, hf, hd, hc⟩ | ⟨w, i, hf, hd, hc⟩ := cycle_cases rnd s <;> rw [hfetch] at hf <;>
    rw [hc] at h
  · cases h
    refine .inl ⟨e, ?_, by simp [fetchedInstr, hf], rfl⟩
    obtain ⟨-, he⟩ | ⟨hb, -⟩ := fetch_cases s
    · cases hf.symm.trans he
    · simp only [Config.memSize] at hb
      omega
  · cases h
    exact .inr (.inl ⟨w, hbound ⟨w, hf⟩, by simp [fetchedInstr, hf, hd], rfl⟩)
  · obtain ⟨u, hu⟩ := exec_answers_next i (s.beginCycle rnd)
    rw [hu] at h
    cases h
    exact .inr (.inr ⟨i, u, hbound ⟨w, hf⟩, by simp [fetchedInstr, hf, hd], hu, rfl⟩)

/-- The components phases 1 to 3 of a cycle may write: the report, the random byte, `PC` past an unknown word, and what
the fetched instruction writes. -/
def writtenBeforeTick (s : State) : List Part :=
  [.pc, .err, .rnd] ++ ((fetchedInstr s).map writtenParts).getD []

theorem mem_writtenBeforeTick {p : Part} {s : State} :
    p ∈ writtenBeforeTick s ↔ p ∈ [.pc, .err, .rnd] ∨ ∃ i, fetchedInstr s = some i ∧ p ∈ writtenParts i := by
  cases hi : fetchedInstr s <;> simp [writtenBeforeTick, hi, or_assoc]

/-- A cycle is the timer update of a state in which only those components have changed (R90, R94, R193). -/
theorem cycle_eq_tick {rnd : Byte} {s t : State} (h : cycle rnd s = .next t) :
    ∃ u : State, t = u.tick ∧ UnchangedBut (writtenBeforeTick s) s u := by
  obtain ⟨e, -, hi, rfl⟩ | ⟨w, -, hi, rfl⟩ | ⟨i, u, -, hi, hu, rfl⟩ := cycle_next_cases h
  · exact ⟨_, rfl, by simp [unchangedBut_iff, writtenBeforeTick, hi]⟩
  · exact ⟨_, rfl, by simp [unchangedBut_iff, writtenBeforeTick, hi]⟩
  · have hbegin : UnchangedBut (writtenBeforeTick s) s (s.beginCycle rnd) := by
      simp [unchangedBut_iff, writtenBeforeTick]
    have hinstr : UnchangedBut (writtenBeforeTick s) (s.beginCycle rnd) u :=
      (exec_unchangedBut_writtenParts hu).mono fun p hp => mem_writtenBeforeTick.2 (.inr ⟨i, hi, hp⟩)
    exact ⟨u, rfl, hbegin.trans hinstr⟩

end Sys2Proof.Machine

/-! PROOFS. The bound of `PC` and of the stack slots (R26, R113): it holds after reset, a fetched instruction leads to
a state within it, and so does every step and every move of the host. -/

namespace Sys2Proof.Machine

theorem PcInRange.of_agree {s t : State} (h : PcInRange s) (hpc : t.pc = s.pc) (hstack : t.stack = s.stack) :
    PcInRange t := by
  simpa only [PcInRange, hpc, hstack] using h

/-- An advance of at most 4 from where a fetch succeeds stays within the bound. -/
theorem PcInRange.of_advance {s t : State} (h : PcInRange s) (hfetch : s.pc.toNat ≤ 0xFFE)
    (hpc : t.pc = s.pc ∨ t.pc = s.pc + 2#16 ∨ t.pc = s.pc + 4#16) (hstack : t.stack = s.stack) : PcInRange t := by
  refine ⟨?_, by simpa only [hstack] using h.2⟩
  obtain e | e | e := hpc <;> rw [e] <;> bv_omega

theorem State.skipIf_pc (s : State) (c : Bool) : (s.skipIf c).pc = s.pc + 2#16 ∨ (s.skipIf c).pc = s.pc + 4#16 := by
  cases c
  · exact .inl rfl
  · exact .inr rfl

theorem addrOperand_le (nnn : Addr12) : (addrOperand nnn).toNat ≤ 0xFFF := by
  have := nnn.isLt
  rw [addrOperand, BitVec.toNat_ofNat]
  omega

theorem offsetTarget_le (s : State) (nnn : Addr12) : (offsetTarget s nnn).toNat ≤ 0x10FE := by
  have := nnn.isLt
  have := (s.getV 0).isLt
  rw [offsetTarget, BitVec.toNat_ofNat]
  omega

/-- An instruction that is no jump, call or return keeps `PC` or advances it by 2 or 4 (R25, R110). -/
theorem exec_pc_of_no_transfer {i : Instr} {s t : State} (h : exec i s = .next t) (hret : i ≠ .ret)
    (hcall : ∀ nnn, i ≠ .callNnn nnn) (hjp : ∀ nnn, i ≠ .jpNnn nnn) (hjpV0 : ∀ nnn, i ≠ .jpV0Nnn nnn) :
    t.pc = s.pc ∨ t.pc = s.pc + 2#16 ∨ t.pc = s.pc + 4#16 := by
  cases i with
  | ret => exact absurd rfl hret
  | callNnn nnn => exact absurd rfl (hcall nnn)
  | jpNnn nnn => exact absurd rfl (hjp nnn)
  | jpV0Nnn nnn => exact absurd rfl (hjpV0 nnn)
  | drwVxVyN x y n => obtain ⟨-, rfl⟩ | ⟨-, -, rfl⟩ := exec_drwVxVyN_cases h <;> exact .inr (.inl rfl)
  | ldVxK x =>
    obtain ⟨k, -, rfl⟩ | ⟨-, rfl⟩ := exec_ldVxK_cases h
    · exact .inr (.inl rfl)
    · exact .inl rfl
  | ldBVx x => obtain ⟨-, rfl⟩ | ⟨-, rfl⟩ := exec_ldBVx_cases h <;> simp
  | ldMemVx x => obtain ⟨-, rfl⟩ | ⟨-, rfl⟩ := exec_ldMemVx_cases h <;> simp
  | ldVxMem x => obtain ⟨-, rfl⟩ | ⟨-, rfl⟩ := exec_ldVxMem_cases h <;> simp
  | seVxNn | sneVxNn | seVxVy | sneVxVy | skpVx | sknpVx =>
    cases h
    exact .inr (State.skipIf_pc s _)
  | cls | ldVxNn | addVxNn | ldVxVy | orVxVy | andVxVy | xorVxVy | addVxVy | subVxVy | shrVx | subnVxVy | shlVx
  | ldINnn | rndVxNn | ldVxDt | ldDtVx | ldStVx | addIVx | ldFVx =>
    cases h
    exact .inr (.inl rfl)

/-- A return comes back to a slot, within the bound as every slot is (R111). -/
theorem exec_ret_pcInRange {s t : State} (hs : PcInRange s) (hfetch : s.pc.toNat ≤ 0xFFE)
    (h : exec .ret s = .next t) : PcInRange t := by
  obtain ⟨h0, rfl⟩ | ⟨-, rfl⟩ := exec_ret_cases h
  · have hslot := hs.2 ⟨s.sp.val - 1, by have := s.sp.isLt; omega⟩
    simp only [Fin.getElem_fin] at hslot
    exact ⟨by simp only; omega, hs.2⟩
  · exact hs.of_advance hfetch (.inr (.inl rfl)) rfl

/-- A fetched call pushes at most 0xFFE + 2 and jumps to at most 0xFFF (R113). -/
theorem exec_callNnn_pcInRange {nnn : Addr12} {s t : State} (hs : PcInRange s) (hfetch : s.pc.toNat ≤ 0xFFE)
    (h : exec (.callNnn nnn) s = .next t) : PcInRange t := by
  obtain ⟨h0, rfl⟩ | ⟨-, rfl⟩ := exec_callNnn_cases h
  · refine ⟨(addrOperand_le nnn).trans (by decide), fun k => ?_⟩
    have hpush : (s.pc + 2#16).toNat ≤ 0x1000 := by bv_omega
    have hslot := hs.2 k
    simp only [Fin.getElem_fin, Vector.getElem_set] at hslot ⊢
    split
    · exact hpush
    · exact hslot
  · exact hs.of_advance hfetch (.inr (.inl rfl)) rfl

theorem exec_pcInRange {i : Instr} {s t : State} (hs : PcInRange s) (hfetch : s.pc.toNat ≤ 0xFFE)
    (h : exec i s = .next t) : PcInRange t := by
  by_cases hret : i = .ret
  · subst hret
    exact exec_ret_pcInRange hs hfetch h
  by_cases hcall : ∃ nnn, i = .callNnn nnn
  · obtain ⟨nnn, rfl⟩ := hcall
    exact exec_callNnn_pcInRange hs hfetch h
  by_cases hjp : ∃ nnn, i = .jpNnn nnn
  · obtain ⟨nnn, rfl⟩ := hjp
    cases h
    exact ⟨(addrOperand_le nnn).trans (by decide), hs.2⟩
  by_cases hjpV0 : ∃ nnn, i = .jpV0Nnn nnn
  · obtain ⟨nnn, rfl⟩ := hjpV0
    cases h
    exact ⟨offsetTarget_le s nnn, hs.2⟩
  simp only [not_exists] at hcall hjp hjpV0
  exact hs.of_advance hfetch (exec_pc_of_no_transfer h hret hcall hjp hjpV0)
    (onlyCallAndReturnTouchTheStack i s t h hret hcall).1

/-- A fetch error leaves `PC` (R192), an unknown word moves it on by 2 (R193), and the timer update writes neither
`PC` nor the stack. -/
theorem cycle_pcInRange {rnd : Byte} {s t : State} (hs : PcInRange s) (h : cycle rnd s = .next t) : PcInRange t := by
  obtain ⟨e, -, -, rfl⟩ | ⟨w, hfetch, -, rfl⟩ | ⟨i, u, hfetch, -, hu, rfl⟩ := cycle_next_cases h
  · exact hs.of_agree rfl rfl
  · exact hs.of_advance hfetch (.inr (.inl rfl)) rfl
  · have hbegin : PcInRange (s.beginCycle rnd) := hs.of_agree rfl rfl
    exact (exec_pcInRange hbegin hfetch hu).of_agree rfl rfl

/-- Settles O3: with nothing listed memory is canonical, `PC` is the entry point and every slot is 0. -/
theorem resetMeetsBothInvariants : Obligations.ResetMeetsBothInvariants :=
  ⟨rfl, by decide, by decide⟩

/-- A load writes memory at most (R181, R196). -/
theorem hostMove_load_unchangedBut {image : List Byte} {s t : State} (h : hostMove (.load image) s = .next t) :
    UnchangedBut [.mem] s t := by
  by_cases hsize : Config.progSpace < image.length
  · simp only [hostMove, load, if_pos hsize] at h
    cases h
    simp [unchangedBut_iff]
  · simp only [hostMove, load, if_neg hsize] at h
    cases h
    simp [unchangedBut_iff]

theorem hostMove_pcInRange {m : HostMove} {s t : State} (hs : PcInRange s) (h : hostMove m s = .next t) :
    PcInRange t := by
  cases m with
  | reset =>
    cases h
    exact resetMeetsBothInvariants.2.of_agree rfl rfl
  | load image =>
    have hframe := hostMove_load_unchangedBut h
    exact hs.of_agree (hframe .pc (by decide)) (hframe .stack (by decide)).1
  | setKey | clearDrawRequest | clearBeepRequest =>
    cases h
    exact hs.of_agree rfl rfl
  | step rnd => exact cycle_pcInRange hs h

/-- Settles O19, by the preservation of the bound through the execute phase, the cycle and the moves of the host. -/
theorem stepsKeepPcInRange : Obligations.StepsKeepPcInRange := by
  intro s hs
  have hdraw : PcInRange s.takeDraw := hs.of_agree rfl rfl
  exact ⟨fun _ h => cycle_pcInRange hdraw h, fun _ _ h => hostMove_pcInRange hs h⟩

end Sys2Proof.Machine

/-! PROOFS. The state's components one by one: what a step does to the timers, who may write the keys, the display,
memory, `I` and the general registers (R22 to R34), and what reset leaves in them (R37). -/

namespace Sys2Proof.Machine

/-! ### The timers -/

/-- Settles O12: the countdown applies to what FX15 wrote, and to the old value otherwise, as no other row of the frame
names the delay timer. -/
theorem delayTimerCountsEveryStep : Obligations.DelayTimerCountsEveryStep := by
  intro s t h
  refine ⟨fun x hx => ?_, fun hx => ?_⟩
  · obtain ⟨_, -, hi, -⟩ | ⟨_, -, hi, -⟩ | ⟨i, u, -, hi, hu, rfl⟩ := cycle_next_cases h
    · cases hi.symm.trans hx
    · cases hi.symm.trans hx
    · obtain rfl : i = .ldDtVx x := Option.some.inj (hi.symm.trans hx)
      cases hu
      exact toNat_countDown (s.getV x)
  · obtain ⟨u, rfl, hframe⟩ := cycle_eq_tick h
    have hdt : .dt ∉ writtenBeforeTick s := by
      simpa [mem_writtenBeforeTick, dt_mem_writtenParts] using hx
    rw [State.tick_dt, toNat_countDown, hframe .dt hdt, State.takeDraw_dt]

/-- Settles O13, as for the delay timer; the beep request is written by the timer update alone. -/
theorem soundTimerCountsAndBeeps : Obligations.SoundTimerCountsAndBeeps := by
  intro s t h
  refine ⟨fun x hx => ?_, fun hx => ?_⟩
  · obtain ⟨_, -, hi, -⟩ | ⟨_, -, hi, -⟩ | ⟨i, u, -, hi, hu, rfl⟩ := cycle_next_cases h
    · cases hi.symm.trans hx
    · cases hi.symm.trans hx
    · obtain rfl : i = .ldStVx x := Option.some.inj (hi.symm.trans hx)
      cases hu
      exact ⟨toNat_countDown (s.getV x), rfl⟩
  · obtain ⟨u, rfl, hframe⟩ := cycle_eq_tick h
    have hst : .st ∉ writtenBeforeTick s := by
      simpa [mem_writtenBeforeTick, st_mem_writtenParts] using hx
    have hbeep : .beepReq ∉ writtenBeforeTick s := by
      simp [mem_writtenBeforeTick, beepReq_notMem_writtenParts]
    rw [State.tick_st, State.tick_beepReq, toNat_countDown, hframe .st hst, hframe .beepReq hbeep, State.takeDraw_st,
      State.takeDraw_beepReq]
    exact ⟨rfl, rfl⟩

/-! ### The keys -/

theorem cycle_key {rnd : Byte} {s t : State} (h : cycle rnd s = .next t) : t.key = s.key := by
  obtain ⟨u, rfl, hframe⟩ := cycle_eq_tick h
  exact hframe .key (by simp [mem_writtenBeforeTick, key_notMem_writtenParts])

theorem step_key {s t : State} (h : step s = .next t) : t.key = s.key :=
  cycle_key (s := s.takeDraw) h

theorem keyDown_setKey (k j : Fin 16) (p : Bool) (s : State) :
    (setKey k p s).keyDown j = if j = k then p else s.keyDown j := by
  simp only [setKey, State.keyDown, Fin.getElem_fin, Vector.getElem_set, Fin.ext_iff, eq_comm]

theorem setKey_unchangedBut (k : Fin 16) (p : Bool) (s : State) : UnchangedBut [.key] s (setKey k p s) := by
  simp [unchangedBut_iff, setKey]

theorem setKey_eq_self {k : Fin 16} {p : Bool} {s : State} (h : s.keyDown k = p) : setKey k p s = s := by
  subst h
  simp [setKey, State.keyDown]

theorem hostMove_key {m : HostMove} {s t : State} (h : hostMove m s = .next t) (hreset : m ≠ .reset)
    (hset : ∀ k p, m ≠ .setKey k p) : t.key = s.key := by
  cases m with
  | reset => exact absurd rfl hreset
  | setKey k p => exact absurd rfl (hset k p)
  | load image => exact hostMove_load_unchangedBut h .key (by decide)
  | clearDrawRequest | clearBeepRequest =>
    cases h
    rfl
  | step rnd => exact cycle_key h

/-- Settles O20: no row of the frame names the keys. -/
theorem keysAreWrittenByTheHostAlone : Obligations.KeysAreWrittenByTheHostAlone :=
  ⟨fun i _ _ h => exec_unchangedBut_writtenParts h .key (key_notMem_writtenParts i),
    fun _ _ => step_key,
    keyDown_setKey,
    fun k p s => ⟨setKey_unchangedBut k p s, setKey_eq_self⟩,
    fun _ _ _ => hostMove_key⟩

/-! ### The display, memory and the index register -/

/-- Settles O22: no other row of the frame names the framebuffer or the draw request. -/
theorem onlyDrawingTouchesTheDisplay : Obligations.OnlyDrawingTouchesTheDisplay := by
  intro i s t h hcls hdrw
  have hframe := exec_unchangedBut_writtenParts h
  exact ⟨hframe .fb (by simp [fb_mem_writtenParts, hcls, hdrw]),
    hframe .drawReq (by simp [drawReq_mem_writtenParts, hcls, hdrw])⟩

/-- A run of bytes stored inside memory does not reach an address above 0xFFF (R53). -/
theorem Memory.read_writeBytes_above {m : Memory} {base a : Nat} {bytes : List Byte}
    (h : base + bytes.length ≤ Config.memSize) (ha : Config.memSize ≤ a) :
    (m.writeBytes base bytes).read a = m.read a := by
  rw [Memory.read_writeBytes, if_neg (by omega)]

theorem exec_read_above {i : Instr} {s t : State} (h : exec i s = .next t) {a : Nat} (ha : Config.memSize ≤ a) :
    t.mem.read a = s.mem.read a := by
  by_cases hmem : .mem ∈ writtenParts i
  · obtain ⟨x, rfl⟩ | ⟨x, rfl⟩ := mem_mem_writtenParts.1 hmem
    · obtain ⟨hb, rfl⟩ | ⟨-, rfl⟩ := exec_ldBVx_cases h
      · exact Memory.read_writeBytes_above (by rwa [length_bcdDigits]) ha
      · rfl
    · obtain ⟨hb, rfl⟩ | ⟨-, rfl⟩ := exec_ldMemVx_cases h
      · exact Memory.read_writeBytes_above (by rwa [length_lowRegisters]) ha
      · rfl
  · exact exec_unchangedBut_writtenParts h .mem hmem a

/-- Settles O23: no other row of the frame names memory, and the bounds check keeps the stores below 0x1000. -/
theorem onlyStoresWriteMemory : Obligations.OnlyStoresWriteMemory := by
  intro i s t h
  refine ⟨fun hbcd hstore => ?_, fun a ha => exec_read_above h ha⟩
  exact exec_unchangedBut_writtenParts h .mem (by simp [mem_mem_writtenParts, hbcd, hstore])

/-- Settles O24: no other row of the frame names `I`. -/
theorem onlyIndexInstructionsWriteIndex : Obligations.OnlyIndexInstructionsWriteIndex := by
  intro i s t h hld hadd hglyph
  exact exec_unchangedBut_writtenParts h .i (by simp [i_mem_writtenParts, hld, hadd, hglyph])

/-! ### The general registers -/

theorem getV_loadedRun {m : Memory} {base : Nat} {x r : Reg} (s : State) (h : x.val < r.val) :
    (s.setLowV (m.readBytes base (x.val + 1))).getV r = s.getV r := by
  rw [State.getV_setLowV, Memory.getD_readBytes, if_neg (by omega)]

/-- Settles O25: the instruction writes `V[X]`, VF, both, the run `V[0]` to `V[X]`, or no general register at all, as
its row of the access table says; in the last case its row of the frame does not name them. -/
theorem registersWrittenAreTheTables : Obligations.RegistersWrittenAreTheTables := by
  intro i s t h r hr
  cases i with
  | ldVxNn | addVxNn | ldVxVy | orVxVy | andVxVy | xorVxVy | rndVxNn | ldVxDt | addVxVy | subVxVy | shrVx | subnVxVy
  | shlVx | addIVx =>
    cases h
    simp only [writtenRegisters, List.mem_cons, List.not_mem_nil, or_false, not_or] at hr
    simp [hr]
  | ldVxK x =>
    simp only [writtenRegisters, List.mem_singleton] at hr
    obtain ⟨k, -, rfl⟩ | ⟨-, rfl⟩ := exec_ldVxK_cases h
    · simp [hr]
    · rfl
  | drwVxVyN x y n =>
    simp only [writtenRegisters, List.mem_singleton] at hr
    obtain ⟨-, rfl⟩ | ⟨-, -, rfl⟩ := exec_drwVxVyN_cases h
    · simp [drawSprite, hr]
    · rfl
  | ldVxMem x =>
    have hr : x.val < r.val := by simpa [writtenRegisters] using hr
    obtain ⟨-, rfl⟩ | ⟨-, rfl⟩ := exec_ldVxMem_cases h
    · rw [State.getV_advance, getV_loadedRun s hr]
    · rfl
  | cls | ret | jpNnn | callNnn | jpV0Nnn | ldINnn | seVxNn | sneVxNn | seVxVy | sneVxVy | skpVx | sknpVx | ldDtVx
  | ldStVx | ldFVx | ldBVx | ldMemVx =>
    have hv : t.v = s.v := exec_unchangedBut_writtenParts h .v (by simp [writtenParts])
    rw [State.getV_eq, State.getV_eq, hv]

/-! ### What no instruction reads -/

/-- The state with other values of the sound timer and the two request flags. -/
def State.withHostFlags (s : State) (b : Byte) (d p : Bool) : State := { s with st := b, drawReq := d, beepReq := p }

theorem State.withHostFlags_unchangedBut (s : State) (b : Byte) (d p : Bool) :
    UnchangedBut [.st, .drawReq, .beepReq] s (s.withHostFlags b d p) := by
  simp [unchangedBut_iff, State.withHostFlags]

theorem State.skipIf_withHostFlags (s : State) (c : Bool) (b : Byte) (d p : Bool) :
    (s.withHostFlags b d p).skipIf c = (s.skipIf c).withHostFlags b d p := by
  cases c <;> rfl

/-- Changing the three before an instruction amounts to changing them after it: to what they were changed to, or to
what FX18 gives the sound timer and a drawing instruction the draw request. -/
theorem exec_withHostFlags {i : Instr} {s t : State} (h : exec i s = .next t) (b : Byte) (d p : Bool) :
    ∃ b' d' p', exec i (s.withHostFlags b d p) = .next (t.withHostFlags b' d' p') := by
  cases i with
  | ret =>
    obtain ⟨h0, rfl⟩ | ⟨h0, rfl⟩ := exec_ret_cases h
    · exact ⟨b, d, p, exec_ret_pop (s.withHostFlags b d p) h0⟩
    · exact ⟨b, d, p, exec_ret_empty (s.withHostFlags b d p) h0⟩
  | callNnn nnn =>
    obtain ⟨h0, rfl⟩ | ⟨h0, rfl⟩ := exec_callNnn_cases h
    · exact ⟨b, d, p, exec_callNnn_push (s.withHostFlags b d p) nnn h0⟩
    · exact ⟨b, d, p, exec_callNnn_full (s.withHostFlags b d p) nnn h0⟩
  | drwVxVyN x y n =>
    obtain ⟨h0, rfl⟩ | ⟨h0, h1, rfl⟩ := exec_drwVxVyN_cases h
    · exact ⟨b, true, p, exec_drwVxVyN_ok (s.withHostFlags b d p) x y n h0⟩
    · exact ⟨b, d, p, exec_drwVxVyN_error (s.withHostFlags b d p) x y n h0 h1⟩
  | ldVxK x =>
    obtain ⟨k, hk, rfl⟩ | ⟨hup, rfl⟩ := exec_ldVxK_cases h
    · exact ⟨b, d, p, exec_ldVxK_some (s.withHostFlags b d p) x hk⟩
    · exact ⟨b, d, p, exec_ldVxK_none (t.withHostFlags b d p) x hup⟩
  | ldBVx x =>
    obtain ⟨h0, rfl⟩ | ⟨h0, rfl⟩ := exec_ldBVx_cases h
    · exact ⟨b, d, p, exec_ldBVx_ok (s.withHostFlags b d p) x h0⟩
    · exact ⟨b, d, p, exec_ldBVx_error (s.withHostFlags b d p) x h0⟩
  | ldMemVx x =>
    obtain ⟨h0, rfl⟩ | ⟨h0, rfl⟩ := exec_ldMemVx_cases h
    · exact ⟨b, d, p, exec_ldMemVx_ok (s.withHostFlags b d p) x h0⟩
    · exact ⟨b, d, p, exec_ldMemVx_error (s.withHostFlags b d p) x h0⟩
  | ldVxMem x =>
    obtain ⟨h0, rfl⟩ | ⟨h0, rfl⟩ := exec_ldVxMem_cases h
    · exact ⟨b, d, p, exec_ldVxMem_ok (s.withHostFlags b d p) x h0⟩
    · exact ⟨b, d, p, exec_ldVxMem_error (s.withHostFlags b d p) x h0⟩
  | cls =>
    cases h
    exact ⟨b, true, p, rfl⟩
  | ldStVx x =>
    cases h
    exact ⟨s.getV x, d, p, rfl⟩
  | seVxNn | sneVxNn | seVxVy | sneVxVy | skpVx | sknpVx =>
    cases h
    exact ⟨b, d, p, congrArg Host.Outcome.next (s.skipIf_withHostFlags _ b d p)⟩
  | jpNnn | ldVxNn | addVxNn | ldVxVy | orVxVy | andVxVy | xorVxVy | addVxVy | subVxVy | shrVx | subnVxVy
  | shlVx | ldINnn | jpV0Nnn | rndVxNn | ldVxDt | ldDtVx | addIVx | ldFVx =>
    cases h
    exact ⟨b, d, p, rfl⟩

/-- Settles O48: both runs end in states that differ in the three components at most. -/
theorem hostFlagsAreInvisibleToPrograms : Obligations.HostFlagsAreInvisibleToPrograms := by
  intro i s t t' b d p h h'
  obtain ⟨b', d', p', hflags⟩ := exec_withHostFlags h b d p
  obtain rfl : t.withHostFlags b' d' p' = t' := Host.Outcome.next.inj (hflags.symm.trans h')
  exact t.withHostFlags_unchangedBut b' d' p'

/-! ### Reset -/

theorem State.getV_reset (r : Reg) : State.reset.getV r = 0 := by
  simp [State.getV_eq, State.reset]

theorem State.keyDown_reset (k : Fin 16) : State.reset.keyDown k = false := by
  simp [State.keyDown, State.reset]

theorem State.stack_reset (k : Fin 16) : State.reset.stack[k] = 0 := by
  simp [State.reset]

theorem length_font : Config.font.length = 80 := rfl

/-- After reset every address reads as the font table from 0x000 on, which is zero beyond its 80 bytes (R37, R56). -/
theorem Memory.read_reset (a : Nat) : State.reset.mem.read a = Config.font.getD a 0 := by
  simp [State.reset, Memory.read, Memory.unlisted]

/-- Settles O1, component by component. -/
theorem resetLeavesTableValues : Obligations.ResetLeavesTableValues :=
  ⟨State.getV_reset, rfl, rfl, rfl, State.stack_reset, length_font, fun a _ => Memory.read_reset a,
    fun a ha => (Memory.read_reset a).trans (List.getD_eq_default _ _ (length_font ▸ ha)), rfl, rfl,
    Framebuffer.cell_blank, State.keyDown_reset, rfl, rfl⟩

end Sys2Proof.Machine

/-! PROOFS. Main memory (20_memory.md): the fetch reads two bytes big-endian (R92), a store is seen by the next fetch
(R58, R61), and a data access that passes 0xFFF is reported and does nothing else (R53, R193). -/

namespace Sys2Proof.Machine

/-! ### The fetch -/

theorem toNat_bigEndian (hi lo : Byte) :
    (BitVec.ofNat 16 (hi.toNat * 256 + lo.toNat)).toNat = hi.toNat * 256 + lo.toNat := by
  rw [BitVec.toNat_ofNat, Nat.mod_eq_of_lt]
  have := hi.isLt
  have := lo.isLt
  omega

theorem fetch_ok {s : State} (h : s.pc.toNat ≤ 0xFFE) :
    ∃ w : Word, fetch s = .ok w ∧
      w.toNat = (s.mem.read s.pc.toNat).toNat * 256 + (s.mem.read (s.pc.toNat + 1)).toNat :=
  ⟨_, s.memRead16_ok (Nat.add_le_add_right h 2), toNat_bigEndian _ _⟩

theorem fetch_error {s : State} (h : 0xFFE < s.pc.toNat) :
    fetch s = .error (.memoryOutOfBounds (max s.pc.toNat 0x1000)) :=
  s.memRead16_error (Nat.add_lt_add_right h 2)

/-- Settles O10: the bounds check of the two bytes at `PC` passes up to 0xFFE and fails above it. -/
theorem fetchReadsTwoBytesBigEndian : Obligations.FetchReadsTwoBytesBigEndian :=
  fun _ => ⟨fetch_ok, fetch_error⟩

/-! ### A store and the fetch after it -/

/-- After the run `V[0]` to `V[x]` was stored at `base`, the byte at `base + k` is `V[k]` (R175). -/
theorem Memory.read_writeBytes_lowRegisters (m : Memory) (base : Nat) (s : State) {x k : Reg} (h : k.val ≤ x.val) :
    (m.writeBytes base (lowRegisters s x)).read (base + k.val) = s.getV k := by
  rw [Memory.read_writeBytes, length_lowRegisters, if_pos (by omega), Nat.add_sub_cancel_left,
    getD_lowRegisters s x k.val 0 h]

/-- An in-range FX55 puts `V[k]` at address `I + k` for every `k` up to `X` (R175). -/
theorem exec_ldMemVx_read {x k : Reg} {s t : State} (hin : s.i.toNat + x.val ≤ 0xFFF)
    (h : exec (.ldMemVx x) s = .next t) (hk : k.val ≤ x.val) : t.mem.read (s.i.toNat + k.val) = s.getV k := by
  rw [exec_ldMemVx_ok s x (Nat.add_le_add_right hin 1)] at h
  cases h
  exact Memory.read_writeBytes_lowRegisters s.mem s.i.toNat s hk

/-- Settles O56: the store put `V[k]` and `V[k + 1]` at the two addresses that the fetch reads. -/
theorem storeIsSeenByTheNextFetch : Obligations.StoreIsSeenByTheNextFetch := by
  intro x k s t u hin hexec hk hmem hpc
  have hlt : k.val < x.val := hk
  have hnext : (k + 1).val = k.val + 1 := Fin.val_add_one_of_lt (hk.trans_le x.le_last)
  obtain ⟨w, hfetch, hw⟩ := fetch_ok (s := u) (by omega)
  refine ⟨w, hfetch, ?_⟩
  rw [hw, hmem, hpc, Nat.add_assoc, ← hnext, exec_ldMemVx_read hin hexec hlt.le,
    exec_ldMemVx_read hin hexec (by omega)]

/-! ### Data accesses that pass 0xFFF -/

/-- An error of the execute phase moves `PC` past the instruction and is reported; nothing else changes (R193). -/
theorem State.raise_unchangedBut (s : State) (e : MachineError) : UnchangedBut [.pc, .err] s (s.raise e) := by
  simp [unchangedBut_iff]

/-- Settles O17: each of the four instructions checks all its bytes before it does anything (R53), so past 0xFFF all it
does is raise the error. -/
theorem dataOutOfBoundsIsReported : Obligations.DataOutOfBoundsIsReported := by
  intro s i last hform hlast
  have hraise : exec i s = .next (s.raise (.memoryOutOfBounds (max s.i.toNat 0x1000))) := by
    obtain ⟨x, y, n, rfl, hn, rfl⟩ | ⟨x, rfl, rfl⟩ | ⟨x, rfl, rfl⟩ | ⟨x, rfl, rfl⟩ := hform
    · exact exec_drwVxVyN_error s x y n hn (by simp only [Config.memSize]; omega)
    · exact exec_ldBVx_error s x (Nat.succ_lt_succ hlast)
    · exact exec_ldMemVx_error s x (Nat.succ_lt_succ hlast)
    · exact exec_ldVxMem_error s x (Nat.succ_lt_succ hlast)
  exact ⟨_, hraise, rfl, rfl, s.raise_unchangedBut _⟩

end Sys2Proof.Machine

/-! PROOFS. The encoding (30_encoding.md): the fields of a word (R72), the words with the fixed bits of a row (R74), and
that the decoder and the encoder are inverse to each other (R75) outside the unknown words (R80). -/

namespace Sys2Proof

/-! ### The fields of a word -/

theorem fieldFamily_lt (w : Word) : fieldFamily w < 16 := by
  have := w.isLt
  unfold fieldFamily
  omega

theorem toNat_fieldNN (w : Word) : (fieldNN w).toNat = w.toNat % 256 :=
  BitVec.toNat_ofNat w.toNat 8

theorem toNat_fieldNNN (w : Word) : (fieldNNN w).toNat = w.toNat % 4096 :=
  BitVec.toNat_ofNat w.toNat 12

/-! ### A word is put together from its fields (R71) -/

theorem wordA_fields (w : Word) : wordA (fieldFamily w) (fieldNNN w) = w := by
  apply BitVec.eq_of_toNat_eq
  rw [toNat_wordA (fieldFamily_lt w), toNat_fieldNNN]
  simp only [fieldFamily]
  omega

theorem wordI_fields (w : Word) : wordI (fieldFamily w) (fieldX w) (fieldNN w) = w := by
  apply BitVec.eq_of_toNat_eq
  rw [toNat_wordI (fieldFamily_lt w), toNat_fieldNN]
  simp only [fieldFamily, fieldX]
  omega

theorem wordR_fields (w : Word) : wordR (fieldFamily w) (fieldX w) (fieldY w) (fieldN w).val = w := by
  apply BitVec.eq_of_toNat_eq
  rw [toNat_wordR (fieldFamily_lt w) (fieldN w).isLt]
  simp only [fieldFamily, fieldX, fieldY, fieldN]
  omega

theorem wordS_fields (w : Word) : wordS (fieldFamily w) (fieldX w) (fieldNN w).toNat = w :=
  wordI_fields w

/-! ### The fields of a word that was put together -/

theorem fieldNNN_wordA {f : Nat} (hf : f < 16) (nnn : Addr12) : fieldNNN (wordA f nnn) = nnn := by
  apply BitVec.eq_of_toNat_eq
  have := nnn.isLt
  rw [toNat_fieldNNN, toNat_wordA hf]
  omega

theorem fieldX_wordI {f : Nat} (hf : f < 16) (x : Reg) (nn : Byte) : fieldX (wordI f x nn) = x := by
  apply Fin.ext
  have := nn.isLt
  simp only [fieldX, toNat_wordI hf]
  omega

theorem fieldNN_wordI {f : Nat} (hf : f < 16) (x : Reg) (nn : Byte) : fieldNN (wordI f x nn) = nn := by
  apply BitVec.eq_of_toNat_eq
  have := nn.isLt
  rw [toNat_fieldNN, toNat_wordI hf]
  omega

theorem fieldX_wordR {f n : Nat} (hf : f < 16) (hn : n < 16) (x y : Reg) : fieldX (wordR f x y n) = x := by
  apply Fin.ext
  simp only [fieldX, toNat_wordR hf hn]
  omega

theorem fieldY_wordR {f n : Nat} (hf : f < 16) (hn : n < 16) (x y : Reg) : fieldY (wordR f x y n) = y := by
  apply Fin.ext
  simp only [fieldY, toNat_wordR hf hn]
  omega

theorem fieldN_wordR {f : Nat} (hf : f < 16) (x y : Reg) (n : Nibble) : fieldN (wordR f x y n.val) = n := by
  apply Fin.ext
  simp only [fieldN, toNat_wordR hf n.isLt]
  omega

theorem fieldX_wordS {f sub : Nat} (hf : f < 16) (hs : sub < 256) (x : Reg) : fieldX (wordS f x sub) = x := by
  apply Fin.ext
  simp only [fieldX, toNat_wordS hf hs]
  omega

/-! ### What the masks of R74 say of the fields -/

theorem fieldFamily_of_land_F000 {w m : Word} (h : w &&& 0xF000#16 = m) : fieldFamily w = m.toNat / 4096 := by
  have := w.isLt
  rw [← h, and_F000, BitVec.toNat_ofNat, fieldFamily]
  omega

theorem fields_of_land_F00F {w m : Word} (h : w &&& 0xF00F#16 = m) :
    fieldFamily w = m.toNat / 4096 ∧ (fieldN w).val = m.toNat % 16 := by
  have := w.isLt
  rw [← h, and_F00F, BitVec.toNat_ofNat]
  simp only [fieldFamily, fieldN]
  omega

theorem fields_of_land_F0FF {w m : Word} (h : w &&& 0xF0FF#16 = m) :
    fieldFamily w = m.toNat / 4096 ∧ (fieldNN w).toNat = m.toNat % 256 := by
  have := w.isLt
  rw [← h, and_F0FF, BitVec.toNat_ofNat, toNat_fieldNN, fieldFamily]
  omega

/-! ### The words of a row decode to its instructions -/

/-- The instruction of the same row of R74 whose operands are the fields of `w` (R72). -/
def Instr.withOperandsOf (w : Word) (i : Instr) : Instr :=
  match i with
  | .cls => .cls
  | .ret => .ret
  | .jpNnn _ => .jpNnn (fieldNNN w)
  | .callNnn _ => .callNnn (fieldNNN w)
  | .seVxNn _ _ => .seVxNn (fieldX w) (fieldNN w)
  | .sneVxNn _ _ => .sneVxNn (fieldX w) (fieldNN w)
  | .seVxVy _ _ => .seVxVy (fieldX w) (fieldY w)
  | .ldVxNn _ _ => .ldVxNn (fieldX w) (fieldNN w)
  | .addVxNn _ _ => .addVxNn (fieldX w) (fieldNN w)
  | .ldVxVy _ _ => .ldVxVy (fieldX w) (fieldY w)
  | .orVxVy _ _ => .orVxVy (fieldX w) (fieldY w)
  | .andVxVy _ _ => .andVxVy (fieldX w) (fieldY w)
  | .xorVxVy _ _ => .xorVxVy (fieldX w) (fieldY w)
  | .addVxVy _ _ => .addVxVy (fieldX w) (fieldY w)
  | .subVxVy _ _ => .subVxVy (fieldX w) (fieldY w)
  | .shrVx _ _ => .shrVx (fieldX w) (fieldY w)
  | .subnVxVy _ _ => .subnVxVy (fieldX w) (fieldY w)
  | .shlVx _ _ => .shlVx (fieldX w) (fieldY w)
  | .sneVxVy _ _ => .sneVxVy (fieldX w) (fieldY w)
  | .ldINnn _ => .ldINnn (fieldNNN w)
  | .jpV0Nnn _ => .jpV0Nnn (fieldNNN w)
  | .rndVxNn _ _ => .rndVxNn (fieldX w) (fieldNN w)
  | .drwVxVyN _ _ _ => .drwVxVyN (fieldX w) (fieldY w) (fieldN w)
  | .skpVx _ => .skpVx (fieldX w)
  | .sknpVx _ => .sknpVx (fieldX w)
  | .ldVxDt _ => .ldVxDt (fieldX w)
  | .ldVxK _ => .ldVxK (fieldX w)
  | .ldDtVx _ => .ldDtVx (fieldX w)
  | .ldStVx _ => .ldStVx (fieldX w)
  | .addIVx _ => .addIVx (fieldX w)
  | .ldFVx _ => .ldFVx (fieldX w)
  | .ldBVx _ => .ldBVx (fieldX w)
  | .ldMemVx _ => .ldMemVx (fieldX w)
  | .ldVxMem _ => .ldVxMem (fieldX w)

theorem rowMask_withOperandsOf (w : Word) (i : Instr) : rowMask (i.withOperandsOf w) = rowMask i := by
  cases i <;> rfl

theorem rowMatch_withOperandsOf (w : Word) (i : Instr) : rowMatch (i.withOperandsOf w) = rowMatch i := by
  cases i <;> rfl

/-- The operands of an instruction are the fields of its word. -/
theorem withOperandsOf_encode (i : Instr) : i.withOperandsOf (encode i) = i := by
  cases i with
  | cls | ret => rfl
  | jpNnn | callNnn | ldINnn | jpV0Nnn => simp [Instr.withOperandsOf, encode, fieldNNN_wordA]
  | seVxNn | sneVxNn | ldVxNn | addVxNn | rndVxNn =>
    simp [Instr.withOperandsOf, encode, fieldX_wordI, fieldNN_wordI]
  | seVxVy | ldVxVy | orVxVy | andVxVy | xorVxVy | addVxVy | subVxVy | shrVx | subnVxVy | shlVx | sneVxVy =>
    simp [Instr.withOperandsOf, encode, fieldX_wordR, fieldY_wordR]
  | drwVxVyN => simp [Instr.withOperandsOf, encode, fieldX_wordR, fieldY_wordR, fieldN_wordR]
  | skpVx | sknpVx | ldVxDt | ldVxK | ldDtVx | ldStVx | addIVx | ldFVx | ldBVx | ldMemVx | ldVxMem =>
    simp [Instr.withOperandsOf, encode, fieldX_wordS]

/-- Every instruction's word has the fixed bits of its row (R74), format by format. -/
theorem encode_land_rowMask (i : Instr) : encode i &&& rowMask i = rowMatch i := by
  cases i with
  | cls | ret => rfl
  | jpNnn nnn | callNnn nnn | ldINnn nnn | jpV0Nnn nnn => exact Laws.rowMatch_formatA (by decide) nnn
  | seVxNn x nn | sneVxNn x nn | ldVxNn x nn | addVxNn x nn | rndVxNn x nn =>
    exact Laws.rowMatch_formatI (by decide) x nn
  | seVxVy x y | ldVxVy x y | orVxVy x y | andVxVy x y | xorVxVy x y | addVxVy x y | subVxVy x y | shrVx x y
  | subnVxVy x y | shlVx x y | sneVxVy x y => exact Laws.rowMatch_formatR (by decide) (by decide) x y
  | drwVxVyN x y n => exact Laws.RowMatch.drwVxVyN x y n
  | skpVx x | sknpVx x | ldVxDt x | ldVxK x | ldDtVx x | ldStVx x | addIVx x | ldFVx x | ldBVx x | ldMemVx x
  | ldVxMem x => exact Laws.rowMatch_formatS (by decide) (by decide) x

/-- A word with the fixed bits of a row decodes to the instruction of that row with the word's fields as operands: the
fixed bits are the discriminants that R75 looks at. -/
theorem decodeWord_of_rowMatch {w : Word} {i : Instr} (h : w &&& rowMask i = rowMatch i) :
    decodeWord w = some (i.withOperandsOf w) := by
  cases i with
  | cls | ret =>
    obtain rfl : w = _ := (BitVec.and_allOnes (x := w)).symm.trans h
    rfl
  | jpNnn | callNnn | ldINnn | jpV0Nnn | seVxNn | sneVxNn | ldVxNn | addVxNn | rndVxNn | drwVxVyN =>
    have hf := fieldFamily_of_land_F000 h
    simp [decodeWord, decodeWordWith, hf, rowMatch, Instr.withOperandsOf]
  | seVxVy | sneVxVy =>
    obtain ⟨hf, hn⟩ := fields_of_land_F00F h
    simp [decodeWord, decodeWordWith, hf, hn, rowMatch, Instr.withOperandsOf]
  | ldVxVy | orVxVy | andVxVy | xorVxVy | addVxVy | subVxVy | shrVx | subnVxVy | shlVx =>
    obtain ⟨hf, hn⟩ := fields_of_land_F00F h
    simp [decodeWord, decodeWordWith, decodeFamily8, hf, hn, rowMatch, Instr.withOperandsOf]
  | skpVx | sknpVx =>
    obtain ⟨hf, hs⟩ := fields_of_land_F0FF h
    simp [decodeWord, decodeWordWith, decodeFamilyE, hf, hs, rowMatch, Instr.withOperandsOf]
  | ldVxDt | ldVxK | ldDtVx | ldStVx | addIVx | ldFVx | ldBVx | ldMemVx | ldVxMem =>
    obtain ⟨hf, hs⟩ := fields_of_land_F0FF h
    simp [decodeWord, decodeWordWith, decodeFamilyF, hf, hs, rowMatch, Instr.withOperandsOf]

theorem decodeWord_encode (i : Instr) : decodeWord (encode i) = some i := by
  rw [decodeWord_of_rowMatch (encode_land_rowMask i), withOperandsOf_encode]

/-- The decoder on bytes takes the first two, high byte first, and leaves the rest (R50, R70). -/
theorem decode_bytes_of_decodeWord {w : Word} {i : Instr} (h : decodeWord w = some i) (rest : List Byte) :
    decode (highByte w :: lowByte w :: rest) = .instr i rest := by
  simp only [decode, wordOfBytes_high_low, h]

/-- Settles O4: the word has the fixed bits of the instruction's row, and the operands are the word's fields. -/
theorem decodeAfterEncodeIsIdentity : Obligations.DecodeAfterEncodeIsIdentity :=
  fun i _ => ⟨decodeWord_encode i, decode_bytes_of_decodeWord (decodeWord_encode i)⟩

/-! ### A word that decodes is the word of its instruction -/

theorem encode_of_decodeFamily0 {w : Word} {i : Instr} (h : decodeFamily0 w = some i) : encode i = w := by
  unfold decodeFamily0 at h
  split at h
  · next hw => cases h; exact hw.symm
  · split at h
    · next hw => cases h; exact hw.symm
    · cases h

theorem encode_of_decodeFamily8 {w : Word} {i : Instr} (hf : fieldFamily w = 0x8) (h : decodeFamily8 w = some i) :
    encode i = w := by
  have hw := wordR_fields w
  unfold decodeFamily8 at h
  split at h <;> cases h
  all_goals
    next hn => rwa [hf, hn] at hw

theorem encode_of_decodeFamilyE {w : Word} {i : Instr} (hf : fieldFamily w = 0xE) (h : decodeFamilyE w = some i) :
    encode i = w := by
  have hw := wordS_fields w
  unfold decodeFamilyE at h
  split at h <;> cases h
  all_goals
    next hs => rwa [hf, hs] at hw

theorem encode_of_decodeFamilyF {w : Word} {i : Instr} (hf : fieldFamily w = 0xF) (h : decodeFamilyF w = some i) :
    encode i = w := by
  have hw := wordS_fields w
  unfold decodeFamilyF at h
  split at h <;> cases h
  all_goals
    next hs => rwa [hf, hs] at hw

/-- The arm `h_(k + 1)` is that of family `k`; each family's words have one of the formats of R71. -/
theorem encode_of_decodeWord {w : Word} {i : Instr} (h : decodeWord w = some i) : encode i = w := by
  have hA := wordA_fields w
  have hI := wordI_fields w
  have hR := wordR_fields w
  generalize hf : fieldFamily w = f at hA hI hR
  simp only [decodeWord, decodeWordWith, hf] at h
  split at h
  case h_1 => exact encode_of_decodeFamily0 h
  case h_9 => exact encode_of_decodeFamily8 hf h
  case h_15 => exact encode_of_decodeFamilyE hf h
  case h_16 => exact encode_of_decodeFamilyF hf h
  case h_6 | h_10 =>
    split at h <;> cases h
    next hn => rwa [hn] at hR
  case h_2 | h_3 | h_11 | h_12 => cases h; exact hA
  case h_4 | h_5 | h_7 | h_8 | h_13 => cases h; exact hI
  case h_14 => cases h; exact hR
  case h_17 => cases h

/-- With families A and B admitted (D2) every term is an instruction of the hardware. -/
theorem wellFormed_eq_true (i : Instr) : i.wellFormed = true := by
  cases i <;> rfl

/-- Settles O5: the instruction's word is put together from the fields of the word decoded and its discriminants. -/
theorem encodeAfterDecodeIsIdentity : Obligations.EncodeAfterDecodeIsIdentity :=
  fun _ i h => ⟨encode_of_decodeWord h, wellFormed_eq_true i⟩

/-- Settles O6: a word with the row's fixed bits decodes to that row, and a word that decodes is its instruction's own
word, which has them. -/
theorem decodeFollowsMaskAndMatch : Obligations.DecodeFollowsMaskAndMatch := by
  intro w i _
  constructor
  · intro h
    exact ⟨i.withOperandsOf w, decodeWord_of_rowMatch h, rowMask_withOperandsOf w i, rowMatch_withOperandsOf w i⟩
  · rintro ⟨j, hj, hmask, hmatch⟩
    rw [← hmask, ← hmatch, ← encode_of_decodeWord hj]
    exact encode_land_rowMask j

/-! ### The unknown words -/

theorem decodeFamily0_eq_none (w : Word) : decodeFamily0 w = none ↔ w.toNat ≠ 0x00E0 ∧ w.toNat ≠ 0x00EE := by
  simp only [decodeFamily0, BitVec.toNat_eq, BitVec.toNat_ofNat]
  split_ifs <;> simp [*]

theorem decodeFamily8_eq_none (w : Word) :
    decodeFamily8 w = none ↔ w.toNat % 16 ∈ [0x8, 0x9, 0xA, 0xB, 0xC, 0xD, 0xF] := by
  have := Nat.mod_lt w.toNat (by decide : 16 > 0)
  simp only [decodeFamily8, fieldN]
  generalize w.toNat % 16 = n at this ⊢
  interval_cases n <;> simp

theorem decodeFamilyE_eq_none (w : Word) :
    decodeFamilyE w = none ↔ w.toNat % 256 ≠ 0x9E ∧ w.toNat % 256 ≠ 0xA1 := by
  simp only [decodeFamilyE, toNat_fieldNN]
  split
  case h_1 hs | h_2 hs => simp [hs]
  case h_3 hne9E hneA1 => exact iff_of_true rfl ⟨hne9E, hneA1⟩

theorem decodeFamilyF_eq_none (w : Word) :
    decodeFamilyF w = none ↔ w.toNat % 256 ∉ [0x07, 0x0A, 0x15, 0x18, 0x1E, 0x29, 0x33, 0x55, 0x65] := by
  simp only [decodeFamilyF, toNat_fieldNN]
  split
  case h_10 => simp_all only [imp_false, List.mem_cons, List.not_mem_nil, or_self, not_false_eq_true]
  all_goals
    next hs => simp [hs]

theorem decodeWord_eq_none (w : Word) : decodeWord w = none ↔
    (fieldFamily w = 0x0 ∧ decodeFamily0 w = none) ∨ (fieldFamily w = 0x5 ∧ (fieldN w).val ≠ 0) ∨
    (fieldFamily w = 0x8 ∧ decodeFamily8 w = none) ∨ (fieldFamily w = 0x9 ∧ (fieldN w).val ≠ 0) ∨
    (fieldFamily w = 0xE ∧ decodeFamilyE w = none) ∨ (fieldFamily w = 0xF ∧ decodeFamilyF w = none) := by
  have hlt := fieldFamily_lt w
  simp only [decodeWord, decodeWordWith]
  generalize fieldFamily w = f at hlt ⊢
  interval_cases f <;> simp

/-- Settles O7: the families without a discriminant have no unknown word, and each of the others rejects what its own
part of the decoder rejects. -/
theorem unknownWordsAreTheListed : Obligations.UnknownWordsAreTheListed := by
  intro w
  have h0 : fieldFamily w = 0 ↔ w.toNat < 0x1000 := by
    rw [fieldFamily]
    omega
  rw [decodeWord_eq_none, decodeFamily0_eq_none, decodeFamily8_eq_none, decodeFamilyE_eq_none, decodeFamilyF_eq_none,
    h0]
  rfl

/-- Settles O8, word by word. -/
theorem sampleWordsDecode : Obligations.SampleWordsDecode := by
  unfold Obligations.SampleWordsDecode
  decide

end Sys2Proof

namespace Sys2Proof.Machine

/-- A cycle that fetches an unknown word reports it, moves `PC` past it and updates the timers (R80, R96). -/
theorem cycle_of_unknown {s : State} {w : Word} (rnd : Byte) (hfetch : fetch s = .ok w) (hd : decodeWord w = none) :
    cycle rnd s = .next ((s.beginCycle rnd).raise (.unknownOpcode w)).tick := by
  have hfetch : fetch (s.beginCycle rnd) = .ok w := hfetch
  simp [cycle, hfetch, decodeAndExecute, hd]

/-- Settles O15: the error of the execute phase writes `PC` and the report, the timer update what it always does. -/
theorem unknownWordIsReportedAndSkipped : Obligations.UnknownWordIsReportedAndSkipped := by
  intro s w hfetch hd
  have hstep : step s = .next (s.stepStart.raise (.unknownOpcode w)).tick := cycle_of_unknown _ hfetch hd
  exact ⟨_, hstep, rfl, rfl, toNat_countDown s.dt, toNat_countDown s.st,
    by simp [unchangedBut_iff, State.stepStart]⟩

end Sys2Proof.Machine

/-! PROOFS. The step around the execute phase (40_step_cycle.md): the fetched instruction runs on the state the step
starts from (R90), a reported error has no other effect (R95, R190 to R194), and two loops in which nothing but the
timers runs: a fetch error and a jump to itself (R99). -/

namespace Sys2Proof.Machine

/-! ### What a step executes -/

/-- Before phase 1 a step takes its random byte and clears the report, nothing else (R91, R98). -/
theorem State.stepStart_unchangedBut (s : State) : UnchangedBut [.err, .rnd, .draws] s s.stepStart := by
  simp [unchangedBut_iff, State.stepStart]

theorem fetchedInstr_eq_some {s : State} {i : Instr} :
    fetchedInstr s = some i ↔ ∃ w, fetch s = .ok w ∧ decodeWord w = some i := by
  cases hf : fetch s <;> simp [fetchedInstr, hf]

/-- The fetch looks at `PC` and at what memory reads as (R92). -/
theorem fetch_congr {s t : State} (hpc : t.pc = s.pc) (hmem : ∀ a, t.mem.read a = s.mem.read a) :
    fetch t = fetch s := by
  simp only [fetch, State.memRead16, hpc, hmem]

theorem fetchedInstr_congr {s t : State} (hpc : t.pc = s.pc) (hmem : ∀ a, t.mem.read a = s.mem.read a) :
    fetchedInstr t = fetchedInstr s := by
  simp only [fetchedInstr, fetch_congr hpc hmem]

theorem decodeWord_of_decode {hi lo : Byte} {rest : List Byte} {i : Instr} (h : decode [hi, lo] = .instr i rest) :
    decodeWord (wordOfBytes hi lo) = some i := by
  cases hd : decodeWord (wordOfBytes hi lo) with
  | none => simp [decode, hd] at h
  | some j =>
    simp only [decode, hd, Decoded.instr.injEq] at h
    rw [h.1]

theorem fetchedInstr_of_decode {s : State} {i : Instr} (hpc : s.pc.toNat ≤ 0xFFE)
    (h : decode [s.mem.read s.pc.toNat, s.mem.read (s.pc.toNat + 1)] = .instr i []) : fetchedInstr s = some i :=
  fetchedInstr_eq_some.2 ⟨_, s.memRead16_ok (Nat.add_le_add_right hpc 2), decodeWord_of_decode h⟩

/-- A step that fetches an instruction is its execute phase and then the timer update (R90, R94, R96). -/
theorem step_of_fetchedInstr {s : State} {i : Instr} (h : fetchedInstr s = some i) :
    step s = thenTick (exec i s.stepStart) := by
  obtain ⟨w, hw, hd⟩ := fetchedInstr_eq_some.1 h
  have hfetch : fetch s.stepStart = .ok w := hw
  have hcycle : cycle (Config.randomByte s.draws) s.takeDraw = thenTick (decodeAndExecute w s.stepStart) := by
    rw [cycle, ← State.stepStart, hfetch]
  rw [step, freeCycle, hcycle, decodeAndExecute, hd]

theorem step_of_exec {s t : State} {i : Instr} (h : fetchedInstr s = some i) (hexec : exec i s.stepStart = .next t) :
    step s = .next t.tick := by
  rw [step_of_fetchedInstr h, hexec, thenTick_next]

/-- Settles O9: the two bytes are the word that the fetch reads. -/
theorem stepRunsDecodedInstruction : Obligations.StepRunsDecodedInstruction := by
  intro s i _ hpc hdecode
  have hi : fetchedInstr s = some i := fetchedInstr_of_decode hpc hdecode
  exact ⟨step_of_fetchedInstr hi, fun _ => step_of_exec hi, s.stepStart_unchangedBut, rfl, rfl, rfl⟩

/-! ### A reported error has no other effect -/

/-- An instruction reports nothing, or it is one that can report and all it does is raise the error (R53, R193). -/
theorem exec_err_or_raise {i : Instr} {s t : State} (h : exec i s = .next t) :
    t.err = s.err ∨ (canReport i = true ∧ ∃ e, t = s.raise e) := by
  cases i with
  | ret =>
    obtain ⟨-, rfl⟩ | ⟨-, rfl⟩ := exec_ret_cases h
    exacts [.inl rfl, .inr ⟨rfl, _, rfl⟩]
  | callNnn nnn =>
    obtain ⟨-, rfl⟩ | ⟨-, rfl⟩ := exec_callNnn_cases h
    exacts [.inl rfl, .inr ⟨rfl, _, rfl⟩]
  | drwVxVyN x y n =>
    obtain ⟨-, rfl⟩ | ⟨-, -, rfl⟩ := exec_drwVxVyN_cases h
    exacts [.inl rfl, .inr ⟨rfl, _, rfl⟩]
  | ldBVx x =>
    obtain ⟨-, rfl⟩ | ⟨-, rfl⟩ := exec_ldBVx_cases h
    exacts [.inl rfl, .inr ⟨rfl, _, rfl⟩]
  | ldMemVx x =>
    obtain ⟨-, rfl⟩ | ⟨-, rfl⟩ := exec_ldMemVx_cases h
    exacts [.inl rfl, .inr ⟨rfl, _, rfl⟩]
  | ldVxMem x =>
    obtain ⟨-, rfl⟩ | ⟨-, rfl⟩ := exec_ldVxMem_cases h
    exacts [.inl rfl, .inr ⟨rfl, _, rfl⟩]
  | _ => exact .inl (exec_unchangedBut_writtenParts h .err (by simp [writtenParts]))

/-- Everything a step that reports an error can have done: the report of a fetch error, or the raise of an unknown word
or of an instruction that can report, and the timer update (R191 to R193, R96). -/
theorem step_report_cases {s t : State} {e : MachineError} (h : step s = .next t) (he : t.err = some e) :
    (0xFFE < s.pc.toNat ∧ fetchedInstr s = none ∧ t = (s.stepStart.report e).tick) ∨
    (s.pc.toNat ≤ 0xFFE ∧ (∀ i, fetchedInstr s = some i → canReport i = true) ∧
      t = (s.stepStart.raise e).tick) := by
  have hfetched : fetchedInstr s.takeDraw = fetchedInstr s := rfl
  obtain ⟨e', hpc, hi, rfl⟩ | ⟨w, hpc, hi, rfl⟩ | ⟨i, u, hpc, hi, hu, rfl⟩ :=
    cycle_next_cases (s := s.takeDraw) h <;> rw [hfetched] at hi
  · obtain rfl : e' = e := Option.some.inj he
    exact .inl ⟨hpc, hi, rfl⟩
  · obtain rfl : .unknownOpcode w = e := Option.some.inj he
    exact .inr ⟨hpc, by simp [hi], rfl⟩
  · obtain hnone | ⟨hreport, e', rfl⟩ := exec_err_or_raise hu
    · cases hnone.symm.trans he
    · obtain rfl : e' = e := Option.some.inj he
      exact .inr ⟨hpc, by simpa [hi] using hreport, rfl⟩

/-- Settles O16: a step that reports is the report or the raise on the state it starts from, and the timer update. -/
theorem reportedErrorsHaveNoOtherEffect : Obligations.ReportedErrorsHaveNoOtherEffect := by
  intro s t e h he
  obtain ⟨hpc, hi, rfl⟩ | ⟨hpc, hreport, rfl⟩ := step_report_cases h he
  · exact ⟨by simp [unchangedBut_iff, State.stepStart], fun _ => rfl, fun hle => absurd hle hpc.not_ge,
      by simp [hi]⟩
  · exact ⟨by simp [unchangedBut_iff, State.stepStart], fun hgt => absurd hgt hpc.not_gt, fun _ => rfl, hreport⟩

/-! ### Steps in which nothing but the timers runs -/

/-- From `s` to `t` both timers have counted down `n` times, the beep was requested if the sound timer ran out, and
besides these only the model's own fields may have changed (R96, R99). -/
structure OnlyTimersRan (n : Nat) (s t : State) : Prop where
  dt : t.dt.toNat = s.dt.toNat - n
  st : t.st.toNat = s.st.toNat - n
  beepReq : t.beepReq = (s.beepReq || decide (0 < s.st.toNat ∧ s.st.toNat ≤ n))
  frame : UnchangedBut [.dt, .st, .beepReq, .err, .rnd, .draws] s t

theorem OnlyTimersRan.zero (s : State) : OnlyTimersRan 0 s s where
  dt := rfl
  st := rfl
  beepReq := by
    have hfalse : ¬(0 < s.st.toNat ∧ s.st.toNat ≤ 0) := by omega
    rw [decide_eq_false hfalse, Bool.or_false]
  frame := by simp [unchangedBut_iff]

/-- One more timer update. The beep latch is the disjunction of the steps' requests (D22): the sound timer had run out
before, or it stood at 1. -/
theorem OnlyTimersRan.tick {n : Nat} {s t u : State} (h : OnlyTimersRan n s t)
    (hu : UnchangedBut [.err, .rnd, .draws] t u) : OnlyTimersRan (n + 1) s u.tick where
  dt := by rw [State.tick_dt, toNat_countDown, hu .dt (by decide), h.dt, Nat.sub_sub]
  st := by rw [State.tick_st, toNat_countDown, hu .st (by decide), h.st, Nat.sub_sub]
  beepReq := by
    have hone : t.st = 1 ↔ s.st.toNat - n = 1 := by rw [← h.st, ← BitVec.toNat_inj]; rfl
    have hout : (0 < s.st.toNat ∧ s.st.toNat ≤ n) ∨ t.st = 1 ↔ 0 < s.st.toNat ∧ s.st.toNat ≤ n + 1 := by
      rw [hone]; omega
    rw [State.tick_beepReq, hu .beepReq (by decide), hu .st (by decide), h.beepReq, Bool.or_assoc, ← Bool.decide_or,
      decide_eq_decide.2 hout]
  frame := by
    have htick : UnchangedBut [.dt, .st, .beepReq, .err, .rnd, .draws] u u.tick := by simp [unchangedBut_iff]
    exact (h.frame.trans (hu.mono (by simp))).trans htick

theorem stepRepeat_snoc {n : Nat} {s t u : State} (hrun : stepRepeat n s = .next t) (hlast : step t = .next u) :
    stepRepeat (n + 1) s = .next u := by
  induction n generalizing s with
  | zero =>
    cases hrun
    simp only [stepRepeat, hlast]
  | succ n ih =>
    obtain ⟨s', hs'⟩ := step_answers_next s
    rw [stepRepeat, hs'] at hrun ⊢
    exact ih hrun

/-- The loops of R99: where a condition makes a step the timer update of an otherwise unchanged state, and what such
steps leave unchanged keeps the condition, only the timers run, however many steps are taken. -/
theorem stepRepeat_onlyTimersRan {P : State → Prop} (hstep : ∀ s, P s → ∃ u,
      step s = .next u.tick ∧ UnchangedBut [.err, .rnd, .draws] s u)
    (hkeep : ∀ s t, P s → UnchangedBut [.dt, .st, .beepReq, .err, .rnd, .draws] s t → P t) (n : Nat) {s : State}
    (hs : P s) : ∃ t, stepRepeat n s = .next t ∧ OnlyTimersRan n s t := by
  induction n with
  | zero => exact ⟨s, rfl, .zero s⟩
  | succ n ih =>
    obtain ⟨t, hrun, ht⟩ := ih
    obtain ⟨u, hlast, hu⟩ := hstep t (hkeep s t hs ht.frame)
    exact ⟨u.tick, stepRepeat_snoc hrun hlast, ht.tick hu⟩

/-! ### A fetch error -/

theorem step_of_fetch_error {s : State} (h : 0xFFE < s.pc.toNat) :
    step s = .next (s.stepStart.report (.memoryOutOfBounds (max s.pc.toNat 0x1000))).tick := by
  have hfetch : fetch s.stepStart = .error (.memoryOutOfBounds (max s.pc.toNat 0x1000)) := fetch_error h
  rw [step, freeCycle, cycle, ← State.stepStart, hfetch]
  rfl

theorem State.stepStart_report_unchangedBut (s : State) (e : MachineError) :
    UnchangedBut [.err, .rnd, .draws] s (s.stepStart.report e) := by
  simp [unchangedBut_iff, State.stepStart]

theorem stepRepeat_of_fetch_error (n : Nat) {s : State} (h : 0xFFE < s.pc.toNat) :
    ∃ t, stepRepeat n s = .next t ∧ OnlyTimersRan n s t :=
  stepRepeat_onlyTimersRan (P := fun s => 0xFFE < s.pc.toNat)
    (fun s hs => ⟨_, step_of_fetch_error hs, s.stepStart_report_unchangedBut _⟩)
    (fun _ _ hs hframe => hframe .pc (by decide) ▸ hs) n h

/-- Settles O14: a step that cannot fetch is the report and the timer update (R192), `PC` stays, and so the last step
reports what the first did. -/
theorem fetchErrorRepeatsForever : Obligations.FetchErrorRepeatsForever := by
  intro n s h
  cases n with
  | zero =>
    have h0 := OnlyTimersRan.zero s
    exact ⟨s, rfl, fun hn => absurd hn (Nat.lt_irrefl 0), h0.dt, h0.st, h0.beepReq, h0.frame⟩
  | succ n =>
    obtain ⟨t, hrun, ht⟩ := stepRepeat_of_fetch_error n h
    have hpc : t.pc = s.pc := ht.frame .pc (by decide)
    have hlast := step_of_fetch_error (s := t) (hpc ▸ h)
    have hend := ht.tick (t.stepStart_report_unchangedBut (.memoryOutOfBounds (max t.pc.toNat 0x1000)))
    refine ⟨_, stepRepeat_snoc hrun hlast, fun _ => ?_, hend.dt, hend.st, hend.beepReq, hend.frame⟩
    rw [← hpc]
    rfl

/-! ### A jump to itself -/

theorem addrOperand_eq_pc {s : State} {nnn : Addr12} (h : s.pc.toNat = nnn.toNat) : addrOperand nnn = s.pc := by
  rw [addrOperand, ← h, BitVec.ofNat_toNat, BitVec.setWidth_eq]

/-- A jump to itself stands at `PC`: 1NNN at address NNN (R99 (a)). -/
def JumpsToItself (nnn : Addr12) (s : State) : Prop :=
  fetchedInstr s = some (.jpNnn nnn) ∧ s.pc.toNat = nnn.toNat

/-- The jump writes to `PC` what stands there (R112). -/
theorem JumpsToItself.step_eq_tick {nnn : Addr12} {s : State} (h : JumpsToItself nnn s) :
    ∃ u, step s = .next u.tick ∧ UnchangedBut [.err, .rnd, .draws] s u := by
  obtain ⟨hi, hpc⟩ := h
  exact ⟨s.stepStart.setPc (addrOperand nnn), step_of_exec hi rfl,
    by simp [unchangedBut_iff, State.stepStart, addrOperand_eq_pc hpc]⟩

/-- The next fetch looks at `PC` and memory alone. -/
theorem JumpsToItself.of_frame {nnn : Addr12} {s t : State} (h : JumpsToItself nnn s)
    (hframe : UnchangedBut [.dt, .st, .beepReq, .err, .rnd, .draws] s t) : JumpsToItself nnn t := by
  obtain ⟨hi, hpc⟩ := h
  have hkept : t.pc = s.pc := hframe .pc (by decide)
  exact ⟨(fetchedInstr_congr hkept (hframe .mem (by decide))).trans hi, hkept.symm ▸ hpc⟩

/-- Settles O46: each step jumps to where it stands, and the jump still stands there after it. -/
theorem jumpToItselfRunsForever : Obligations.JumpToItselfRunsForever := by
  intro n nnn s hi hpc
  obtain ⟨t, hrun, ht⟩ := stepRepeat_onlyTimersRan (P := JumpsToItself nnn) (fun _ => JumpsToItself.step_eq_tick)
    (fun _ _ => JumpsToItself.of_frame) n ⟨hi, hpc⟩
  exact ⟨t, hrun, ht.dt, ht.st, ht.beepReq, ht.frame⟩

end Sys2Proof.Machine

/-! PROOFS. Control transfer (41_control_flow.md): the jump (R112), the call and the return with the stack between them
(R111, R113), and the conditional skips (R114 to R117). -/

namespace Sys2Proof

/-! ### The families the control transfers stand in -/

theorem decodeWord_family1 {w : Word} (h : fieldFamily w = 0x1) : decodeWord w = some (.jpNnn (fieldNNN w)) := by
  simp only [decodeWord, decodeWordWith, h]

theorem decodeWord_family3 {w : Word} (h : fieldFamily w = 0x3) :
    decodeWord w = some (.seVxNn (fieldX w) (fieldNN w)) := by
  simp only [decodeWord, decodeWordWith, h]

theorem decodeWord_family4 {w : Word} (h : fieldFamily w = 0x4) :
    decodeWord w = some (.sneVxNn (fieldX w) (fieldNN w)) := by
  simp only [decodeWord, decodeWordWith, h]

theorem decodeWord_family5 {w : Word} (h : fieldFamily w = 0x5) :
    decodeWord w = if fieldN w = 0 then some (.seVxVy (fieldX w) (fieldY w)) else none := by
  simp only [decodeWord, decodeWordWith, h, Fin.val_eq_zero_iff]

theorem decodeWord_family9 {w : Word} (h : fieldFamily w = 0x9) :
    decodeWord w = if fieldN w = 0 then some (.sneVxVy (fieldX w) (fieldY w)) else none := by
  simp only [decodeWord, decodeWordWith, h, Fin.val_eq_zero_iff]

end Sys2Proof

namespace Sys2Proof.Machine

/-! ### The jump -/

theorem toNat_addrOperand (nnn : Addr12) : (addrOperand nnn).toNat = nnn.toNat := by
  have := nnn.isLt
  rw [addrOperand, BitVec.toNat_ofNat]
  omega

theorem State.setPc_unchangedBut (s : State) (a : Word) : UnchangedBut [.pc] s (s.setPc a) := by
  simp [unchangedBut_iff]

/-- Settles O26: the target is written as it stands (D26), and the second of the two bytes at 0xFFF is above memory. -/
theorem jumpGoesToTarget : Obligations.JumpGoesToTarget := by
  refine ⟨fun _ => decodeWord_family1, fun nnn s => ⟨s.setPc (addrOperand nnn), rfl, toNat_addrOperand nnn,
    s.setPc_unchangedBut _, ?_⟩⟩
  rintro rfl
  have hpc : 0xFFE < (s.setPc (addrOperand 0xFFF#12)).pc.toNat := by
    rw [State.setPc_pc]
    decide
  exact fetch_error hpc

/-! ### The call and the return -/

/-- Settles O28, by the two outcomes of the push. -/
theorem callPushesReturnAddress : Obligations.CallPushesReturnAddress := by
  intro nnn s
  refine ⟨fun hroom => ⟨_, exec_callNnn_push s nnn hroom, toNat_addrOperand nnn, rfl, fun k => ?_, ?_⟩,
    fun hfull => ⟨_, exec_callNnn_full s nnn hfull, rfl, rfl, s.raise_unchangedBut _⟩⟩
  · simp only [Fin.getElem_fin, Vector.getElem_set, eq_comm]
  · simp [unchangedBut_iff]

/-- With `k + 1` addresses on the stack a return takes the one in slot `k` and leaves `k` (R111). -/
theorem exec_ret_slot {s : State} {k : Fin 16} (h : s.sp.val = k.val + 1) :
    exec .ret s = .next { s with sp := k.castSucc, pc := s.stack[k] } := by
  rw [exec_ret_pop s (by omega)]
  simp [h, Fin.ext_iff]

/-- Settles O29, by the two outcomes of the pop. -/
theorem returnPopsAddress : Obligations.ReturnPopsAddress := by
  intro s
  refine ⟨fun k hk => ⟨_, exec_ret_slot hk, rfl, rfl, rfl, ?_⟩,
    fun hempty => ⟨_, exec_ret_empty s hempty, rfl, rfl, s.raise_unchangedBut _⟩⟩
  simp [unchangedBut_iff]

/-- Settles O30: the return reads the slot at the depth before the call, which is the one the call wrote. -/
theorem returnComesBackAfterTheCall : Obligations.ReturnComesBackAfterTheCall := by
  intro nnn s hroom
  refine ⟨_, exec_callNnn_push s nnn hroom, fun u hstack hsp => ?_⟩
  have hdepth : u.sp.val = (⟨s.sp.val, hroom⟩ : Fin 16).val + 1 := by rw [hsp]
  exact ⟨_, exec_ret_slot hdepth, by simp [hstack], rfl⟩

/-- As long as there is room, calls nest without a report (R113). -/
theorem execRepeat_callNnn (nnn : Addr12) {n : Nat} {s : State} (hroom : s.sp.val + n ≤ 16) :
    ∃ t, execRepeat (.callNnn nnn) n s = .next t ∧ t.sp.val = s.sp.val + n ∧ t.err = s.err := by
  induction n generalizing s with
  | zero => exact ⟨s, rfl, rfl, rfl⟩
  | succ n ih =>
    obtain ⟨u, hcall, -, hdepth, -, hframe⟩ := (callPushesReturnAddress nnn s).1 (by omega)
    obtain ⟨t, hrun, hsp, herr⟩ := ih (s := u) (by omega)
    have hkept : u.err = s.err := hframe .err (by decide)
    exact ⟨t, by simpa only [execRepeat, hcall] using hrun, by omega, herr.trans hkept⟩

/-- Settles O31: sixteen calls fill the empty stack, and on the full one a call only raises the error. -/
theorem seventeenthNestedCallOverflows : Obligations.SeventeenthNestedCallOverflows := by
  intro nnn s hempty
  obtain ⟨t, hrun, hsp, herr⟩ := execRepeat_callNnn nnn (n := 16) (s := s) (by omega)
  have hfull : t.sp.val = 16 := by omega
  exact ⟨t, hrun, hfull, herr, _, exec_callNnn_full t nnn hfull, rfl, rfl, rfl⟩

/-! ### The conditional skips -/

/-- What a skip does, whatever its condition compares (R110). -/
theorem State.skipIf_effect (s : State) (p : Prop) [Decidable p] :
    (s.skipIf (decide p)).pc = (if p then s.pc + 4#16 else s.pc + 2#16) ∧
      UnchangedBut [.pc] s (s.skipIf (decide p)) := by
  rw [s.skipIf_eq]
  exact ⟨by simp only [State.setPc_pc, decide_eq_true_eq], s.setPc_unchangedBut _⟩

/-- Settles O32: the decoder takes families 5 and 9 with a low nibble of 0 only (D3), and each of the four is a skip on
its own comparison. -/
theorem conditionalSkipsAddFourOrTwo : Obligations.ConditionalSkipsAddFourOrTwo :=
  ⟨fun _ => decodeWord_family3, fun _ => decodeWord_family4, fun _ => decodeWord_family5, fun _ => decodeWord_family9,
    fun x nn s => ⟨_, rfl, s.skipIf_effect (s.getV x = nn)⟩,
    fun x nn s => ⟨_, rfl, s.skipIf_effect (s.getV x ≠ nn)⟩,
    fun x y s => ⟨_, rfl, s.skipIf_effect (s.getV x = s.getV y)⟩,
    fun x y s => ⟨_, rfl, s.skipIf_effect (s.getV x ≠ s.getV y)⟩⟩

end Sys2Proof.Machine

/-! PROOFS. Register and arithmetic instructions (42_register_alu.md): the immediates (R132, R133), assignment and logic
(R134 to R137), the instructions that leave a flag (R138 to R142), and the masked random byte (R143). -/

namespace Sys2Proof

/-! ### The families the immediates stand in -/

theorem decodeWord_family6 {w : Word} (h : fieldFamily w = 0x6) :
    decodeWord w = some (.ldVxNn (fieldX w) (fieldNN w)) := by
  simp only [decodeWord, decodeWordWith, h]

theorem decodeWord_family7 {w : Word} (h : fieldFamily w = 0x7) :
    decodeWord w = some (.addVxNn (fieldX w) (fieldNN w)) := by
  simp only [decodeWord, decodeWordWith, h]

end Sys2Proof

namespace Sys2Proof.Machine

/-! ### Results and flags as numbers -/

theorem toNat_sumByte (a b : Byte) : (sumByte a b).toNat = (a.toNat + b.toNat) % 256 :=
  BitVec.toNat_ofNat _ _

theorem toNat_differenceByte (a b : Byte) : (differenceByte a b).toNat = (a.toNat + 256 - b.toNat) % 256 :=
  BitVec.toNat_ofNat _ _

theorem toNat_halfByte (a : Byte) : (halfByte a).toNat = a.toNat / 2 := by
  have := a.isLt
  rw [halfByte, BitVec.toNat_ofNat]
  omega

theorem toNat_doubleByte (a : Byte) : (doubleByte a).toNat = a.toNat * 2 % 256 :=
  BitVec.toNat_ofNat _ _

theorem toNat_flagByte (f : Bool) : (flagByte f).toNat = f.toNat := by
  cases f <;> rfl

theorem toNat_flagByte_decide (p : Prop) [Decidable p] : (flagByte (decide p)).toNat = if p then 1 else 0 := by
  by_cases h : p
  · rw [decide_eq_true h, if_pos h, toNat_flagByte, Bool.toNat_true]
  · rw [decide_eq_false h, if_neg h, toNat_flagByte, Bool.toNat_false]

theorem toNat_flagByte_carryOut (a b : Byte) :
    (flagByte (carryOut a b)).toNat = if a.toNat + b.toNat > 255 then 1 else 0 :=
  toNat_flagByte_decide _

theorem toNat_flagByte_noBorrow (a b : Byte) :
    (flagByte (noBorrow a b)).toNat = if a.toNat ≥ b.toNat then 1 else 0 :=
  toNat_flagByte_decide _

theorem toNat_flagByte_lowBit (a : Byte) : (flagByte (lowBit a)).toNat = a.toNat % 2 := by
  rw [toNat_flagByte, lowBit, BitVec.getLsbD, Nat.toNat_testBit, Nat.pow_zero, Nat.div_one]

theorem toNat_flagByte_highBit (a : Byte) : (flagByte (highBit a)).toNat = a.toNat / 128 := by
  have := a.isLt
  rw [toNat_flagByte, highBit, BitVec.getLsbD, Nat.toNat_testBit]
  omega

/-! ### What a register write leaves -/

theorem State.getV_setV_advance_same (s : State) (x : Reg) (b : Byte) : (s.setV x b).advance.getV x = b := by
  simp

/-- An instruction that writes `V[x]` and no flag leaves the rest alone and goes on to the next word (R131, R94). -/
theorem State.setV_advance_frame (s : State) (x : Reg) (b : Byte) :
    RegistersUnchangedBut [x] s (s.setV x b).advance ∧ (s.setV x b).advance.pc = s.pc + 2#16 ∧
      UnchangedBut [.v, .pc] s (s.setV x b).advance := by
  refine ⟨fun r hr => ?_, rfl, by simp [unchangedBut_iff]⟩
  have hne : r ≠ x := by simpa using hr
  simp [hne]

/-- An instruction that writes `V[x]` and then the flag: `V[x]` keeps the result unless it is VF, VF is the flag in any
case (D13), and the rest is as before (R131, R94). -/
theorem State.setResultAndFlag_advance_effect (s : State) (x : Reg) {b : Byte} {f : Bool} {result flag : Nat}
    (hb : b.toNat = result) (hf : (flagByte f).toNat = flag) :
    (x ≠ regVF → ((s.setResultAndFlag x b f).advance.getV x).toNat = result) ∧
      ((s.setResultAndFlag x b f).advance.getV regVF).toNat = flag ∧
      RegistersUnchangedBut [x, regVF] s (s.setResultAndFlag x b f).advance ∧
      (s.setResultAndFlag x b f).advance.pc = s.pc + 2#16 ∧
      UnchangedBut [.v, .pc] s (s.setResultAndFlag x b f).advance := by
  refine ⟨fun hx => by simp [hx, hb], by simp [hf], fun r hr => ?_, rfl, by simp [unchangedBut_iff]⟩
  obtain ⟨hx, hflag⟩ : r ≠ x ∧ r ≠ regVF := by simpa using hr
  simp [hx, hflag]

/-! ### The random byte -/

/-- Settles O39: the mask is on the byte the step took, whichever it is (D27), and the timer update writes no
register. -/
theorem randomByteIsMasked : Obligations.RandomByteIsMasked := by
  refine ⟨fun x nn s => ⟨_, rfl, s.getV_setV_advance_same x _, s.setV_advance_frame x _⟩,
    fun x nn s t hi hstep k hk => ?_⟩
  have hrun : step s = .next (s.stepStart.setV x (s.stepStart.rnd &&& nn)).advance.tick := step_of_exec hi rfl
  obtain rfl := Host.Outcome.next.inj (hrun.symm.trans hstep)
  rw [State.getV_tick, State.getV_setV_advance_same, BitVec.getLsbD_and, hk, Bool.and_false]

/-! ### Immediates, assignment and logic -/

/-- Settles O33: the byte is written as it stands in the word. -/
theorem loadImmediateWritesByte : Obligations.LoadImmediateWritesByte :=
  ⟨fun _ => decodeWord_family6, fun x _ s => ⟨_, rfl, s.getV_setV_advance_same x _, s.setV_advance_frame x _⟩⟩

/-- Settles O34: `V[X]` is the one register that is written, so VF is not, unless it is `V[X]` itself. -/
theorem addImmediateWrapsWithoutFlag : Obligations.AddImmediateWrapsWithoutFlag := by
  refine ⟨fun _ => decodeWord_family7, fun x nn s => ⟨_, rfl, ?_, s.setV_advance_frame x _⟩⟩
  rw [State.getV_setV_advance_same, toNat_sumByte]

/-- Settles O35: each of the four is one register write (D14) of a value known bit by bit. -/
theorem assignAndLogicWriteNoFlag : Obligations.AssignAndLogicWriteNoFlag := by
  intro x y s
  refine ⟨⟨_, rfl, s.getV_setV_advance_same x _, s.setV_advance_frame x _⟩,
    ⟨_, rfl, fun k => ?_, s.setV_advance_frame x _⟩, ⟨_, rfl, fun k => ?_, s.setV_advance_frame x _⟩,
    ⟨_, rfl, fun k => ?_, s.setV_advance_frame x _⟩⟩
  · rw [State.getV_setV_advance_same, BitVec.getLsbD_or]
  · rw [State.getV_setV_advance_same, BitVec.getLsbD_and]
  · rw [State.getV_setV_advance_same, BitVec.getLsbD_xor]

/-! ### Instructions that leave a flag -/

/-- Settles O36: the flag is written after the sum and is the carry of the operands as they were. -/
theorem addSetsCarry : Obligations.AddSetsCarry := fun x y s =>
  ⟨_, rfl, s.setResultAndFlag_advance_effect x (toNat_sumByte (s.getV x) (s.getV y))
    (toNat_flagByte_carryOut (s.getV x) (s.getV y))⟩

/-- Settles O37: 8XY7 is 8XY5 with the operands exchanged. -/
theorem subtractSetsNoBorrow : Obligations.SubtractSetsNoBorrow := fun x y s =>
  ⟨⟨_, rfl, s.setResultAndFlag_advance_effect x (toNat_differenceByte (s.getV x) (s.getV y))
      (toNat_flagByte_noBorrow (s.getV x) (s.getV y))⟩,
    ⟨_, rfl, s.setResultAndFlag_advance_effect x (toNat_differenceByte (s.getV y) (s.getV x))
      (toNat_flagByte_noBorrow (s.getV y) (s.getV x))⟩⟩

/-- The operand of a shift is `V[x]` (D12). -/
theorem exec_shrVx (x y : Reg) (s : State) : exec (.shrVx x y) s =
    .next (s.setResultAndFlag x (halfByte (s.getV x)) (lowBit (s.getV x))).advance := rfl

theorem exec_shlVx (x y : Reg) (s : State) : exec (.shlVx x y) s =
    .next (s.setResultAndFlag x (doubleByte (s.getV x)) (highBit (s.getV x))).advance := rfl

/-- Settles O38: the bit shifted out of `V[X]` is its remainder by 2, or its quotient by 128. -/
theorem shiftsDeliverTheBitShiftedOut : Obligations.ShiftsDeliverTheBitShiftedOut := fun x y s =>
  ⟨⟨_, exec_shrVx x y s, s.setResultAndFlag_advance_effect x (toNat_halfByte (s.getV x))
      (toNat_flagByte_lowBit (s.getV x))⟩,
    ⟨_, exec_shlVx x y s, s.setResultAndFlag_advance_effect x (toNat_doubleByte (s.getV x))
      (toNat_flagByte_highBit (s.getV x))⟩⟩

end Sys2Proof.Machine

/-! PROOFS. Display instructions (43_display.md): clearing (R151), and drawing (R150, R152, R153) by composition: a plot
inverts one cell, a sprite row the cells of its set bits, a sprite the cells of its rows, and draws over disjoint sets
of cells add up. -/

namespace Sys2Proof.Machine

/-! ### Clearing -/

/-- Settles O40: the blank framebuffer has every cell off. -/
theorem clearTurnsEveryCellOff : Obligations.ClearTurnsEveryCellOff := fun s =>
  ⟨(s.setFb Framebuffer.blank).requestDraw.advance, rfl, Framebuffer.cell_blank, rfl, rfl, by simp [unchangedBut_iff]⟩

/-! ### Drawing on a set of cells -/

/-- Some cell of the set `p` is on. -/
def Framebuffer.Meets (f : Framebuffer) (p : Nat → Nat → Bool) : Prop :=
  ∃ x y, x < 64 ∧ y < 32 ∧ f.cell x y = true ∧ p x y = true

/-- From `c` to `d` exactly the cells of the set `p` were inverted, and a hit was added exactly when one of them was
on (R152). -/
structure Canvas.Inverts (p : Nat → Nat → Bool) (c d : Canvas) : Prop where
  cell : ∀ x y, x < 64 → y < 32 → d.fb.cell x y = (c.fb.cell x y ^^ p x y)
  hit : d.hit = true ↔ c.hit = true ∨ c.fb.Meets p

theorem Framebuffer.meets_congr {f : Framebuffer} {p q : Nat → Nat → Bool}
    (h : ∀ x y, x < 64 → y < 32 → p x y = q x y) : f.Meets p ↔ f.Meets q := by
  refine exists₂_congr fun x y => and_congr_right fun hx => and_congr_right fun hy => ?_
  rw [h x y hx hy]

theorem Framebuffer.meets_or {f : Framebuffer} {p q : Nat → Nat → Bool} :
    f.Meets (fun x y => p x y || q x y) ↔ f.Meets p ∨ f.Meets q := by
  simp only [Framebuffer.Meets, Bool.or_eq_true, and_or_left, exists_or]

/-- A draw on other cells does not change whether a set of cells is met. -/
theorem Canvas.Inverts.meets_iff {p q : Nat → Nat → Bool} {c d : Canvas} (h : c.Inverts p d)
    (hdisj : ∀ x y, x < 64 → y < 32 → q x y = true → p x y = false) : d.fb.Meets q ↔ c.fb.Meets q := by
  refine exists₂_congr fun x y => and_congr_right fun hx => and_congr_right fun hy => and_congr_left fun hq => ?_
  rw [h.cell x y hx hy, hdisj x y hx hy hq, Bool.xor_false]

theorem Canvas.Inverts.congr {p q : Nat → Nat → Bool} {c d : Canvas} (h : c.Inverts p d)
    (hpq : ∀ x y, x < 64 → y < 32 → p x y = q x y) : c.Inverts q d where
  cell x y hx hy := by rw [h.cell x y hx hy, hpq x y hx hy]
  hit := by rw [h.hit, Framebuffer.meets_congr hpq]

theorem Canvas.Inverts.refl (c : Canvas) : c.Inverts (fun _ _ => false) c where
  cell x y _ _ := (Bool.xor_false _).symm
  hit := by simp [Framebuffer.Meets]

/-- Draws over disjoint sets of cells add up. -/
theorem Canvas.Inverts.trans {p q : Nat → Nat → Bool} {c d e : Canvas} (h : c.Inverts p d) (h' : d.Inverts q e)
    (hdisj : ∀ x y, x < 64 → y < 32 → q x y = true → p x y = false) :
    c.Inverts (fun x y => p x y || q x y) e where
  cell x y hx hy := by
    rw [h'.cell x y hx hy, h.cell x y hx hy]
    cases hq : q x y with
    | true => simp [hdisj x y hx hy hq]
    | false => simp
  hit := by rw [h'.hit, h.hit, h.meets_iff hdisj, Framebuffer.meets_or, or_assoc]

/-! ### The cells of a sprite -/

/-- The column of a sprite placed at column `x0` that lies on column `x` of the screen (R33, R150). -/
def spriteColumn (x0 x : Nat) : Nat := (x + 64 - x0 % 64) % 64

/-- The row of a sprite placed at row `y0` that lies on row `y` of the screen (R33, R150). -/
def spriteRow (y0 y : Nat) : Nat := (y + 32 - y0 % 32) % 32

theorem spriteColumn_eq_iff {x0 x k : Nat} (hx : x < 64) (hk : k < 64) :
    spriteColumn x0 x = k ↔ x = (x0 + k) % 64 := by
  unfold spriteColumn
  omega

theorem spriteRow_eq_zero_iff {y0 y : Nat} (hy : y < 32) : spriteRow y0 y = 0 ↔ y = y0 % 32 := by
  unfold spriteRow
  omega

/-- One row further down, the sprite's row on a row of the screen is one less, cyclically. -/
theorem spriteRow_succ (y0 y : Nat) :
    spriteRow (y0 + 1) y = if spriteRow y0 y = 0 then 31 else spriteRow y0 y - 1 := by
  unfold spriteRow
  split <;> omega

/-- The cell of column `n` of a sprite row placed at `x0`, `y0`, if the bit of `b` for it is set (R150). -/
def bitCovers (b : Byte) (n x0 y0 x y : Nat) : Bool :=
  decide (spriteColumn x0 x = n) && decide (spriteRow y0 y = 0) && b.getLsbD (7 - n)

/-- The cells of the set bits of `b` in its first `n` columns, placed at `x0`, `y0` (R150). -/
def rowCovers (b : Byte) (n x0 y0 x y : Nat) : Bool :=
  decide (spriteColumn x0 x < n) && decide (spriteRow y0 y = 0) && b.getLsbD (7 - spriteColumn x0 x)

/-- The cells of the set bits of a list of sprite rows, placed at `x0`, `y0` (R150). -/
def rowsCover (rows : List Byte) (x0 y0 x y : Nat) : Bool :=
  decide (spriteColumn x0 x < 8) && (rows.getD (spriteRow y0 y) 0#8).getLsbD (7 - spriteColumn x0 x)

theorem spriteHits_iff_meets (s : State) (x0 y0 n : Nat) :
    spriteHits s x0 y0 n ↔ s.fb.Meets (spriteCovers s x0 y0 n) := Iff.rfl

theorem spriteCovers_eq (s : State) (x0 y0 n x y : Nat) :
    spriteCovers s x0 y0 n x y = (decide (spriteColumn x0 x < 8) && decide (spriteRow y0 y < n) &&
      (s.mem.read (s.i.toNat + spriteRow y0 y)).getLsbD (7 - spriteColumn x0 x)) := rfl

/-- What the sprite in memory covers is what the bytes read for it cover. -/
theorem rowsCover_readBytes (s : State) (x0 y0 n x y : Nat) :
    rowsCover (s.mem.readBytes s.i.toNat n) x0 y0 x y = spriteCovers s x0 y0 n x y := by
  rw [rowsCover, spriteCovers_eq, Memory.getD_readBytes]
  by_cases hr : spriteRow y0 y < n <;> simp [hr]

/-- Column `n` adds the one cell of its bit. -/
theorem rowCovers_succ (b : Byte) (n x0 y0 x y : Nat) :
    rowCovers b (n + 1) x0 y0 x y = (rowCovers b n x0 y0 x y || bitCovers b n x0 y0 x y) := by
  obtain hc | hc | hc := Nat.lt_trichotomy (spriteColumn x0 x) n
  · simp [rowCovers, bitCovers, hc, hc.ne, Nat.lt_succ_of_lt hc]
  · simp [rowCovers, bitCovers, hc]
  · simp [rowCovers, bitCovers, hc.ne', hc.not_gt, Nat.not_lt.2 hc]

/-- Fewer than 32 rows, placed one row further down, do not come round to the row above them. -/
theorem rowsCover_wrapped {bs : List Byte} (hlen : bs.length < 32) {y0 y : Nat} (hr : spriteRow y0 y = 0) (x0 x : Nat) :
    rowsCover bs x0 (y0 + 1) x y = false := by
  rw [rowsCover, spriteRow_succ, if_pos hr, List.getD_eq_default _ _ (Nat.le_of_lt_succ hlen),
    BitVec.getLsbD_zero, Bool.and_false]

/-- The first row covers cells of its own row of the screen, the other rows what they cover one row further down. -/
theorem rowsCover_cons (b : Byte) {bs : List Byte} (hlen : bs.length < 32) (x0 y0 x y : Nat) :
    rowsCover (b :: bs) x0 y0 x y = (rowCovers b 8 x0 y0 x y || rowsCover bs x0 (y0 + 1) x y) := by
  cases hr : spriteRow y0 y with
  | zero =>
    rw [rowsCover_wrapped hlen hr, Bool.or_false]
    simp [rowsCover, rowCovers, hr]
  | succ r => simp [rowsCover, rowCovers, spriteRow_succ, hr]

/-! ### What the drawing loops do -/

theorem Framebuffer.cell_mod (f : Framebuffer) (x y : Nat) : f.cell (x % 64) (y % 32) = f.cell x y := by
  simp [Framebuffer.cell]

/-- A plot inverts the one cell it names, coordinates reduced (R33). -/
theorem Canvas.plot_inverts (c : Canvas) (x0 y0 : Nat) :
    c.Inverts (fun x y => decide (x = x0 % 64 ∧ y = y0 % 32)) (c.plot x0 y0) where
  cell x y hx hy := by
    rw [Canvas.plot_fb, Framebuffer.cell_flip, Nat.mod_eq_of_lt hx, Nat.mod_eq_of_lt hy]
    split <;> simp [*]
  hit := by
    rw [Canvas.plot_hit, Bool.or_eq_true, ← Framebuffer.cell_mod]
    refine or_congr_right ⟨fun hon => ⟨_, _, Nat.mod_lt _ (by decide), Nat.mod_lt _ (by decide), hon, by simp⟩, ?_⟩
    rintro ⟨x, y, -, -, hon, hcell⟩
    obtain ⟨rfl, rfl⟩ := of_decide_eq_true hcell
    exact hon

/-- One column of a sprite row: its cell is inverted if its bit is set. -/
theorem Canvas.plotBit_inverts (c : Canvas) (b : Byte) (x0 y0 : Nat) {n : Nat} (hn : n < 8) :
    c.Inverts (bitCovers b n x0 y0) (if b.getLsbD (7 - n) then c.plot (x0 + n) y0 else c) := by
  cases hbit : b.getLsbD (7 - n) with
  | true =>
    refine (c.plot_inverts (x0 + n) y0).congr fun x y hx hy => ?_
    simp [bitCovers, hbit, spriteColumn_eq_iff hx (hn.trans (by decide)), spriteRow_eq_zero_iff hy]
  | false => exact (Canvas.Inverts.refl c).congr fun x y _ _ => by simp [bitCovers, hbit]

theorem Canvas.drawColumns_inverts (c : Canvas) (b : Byte) (x0 y0 : Nat) {n : Nat} (hn : n ≤ 8) :
    c.Inverts (rowCovers b n x0 y0)
      ((List.range n).foldl (fun acc col => if b.getLsbD (7 - col) then acc.plot (x0 + col) y0 else acc) c) := by
  induction n with
  | zero => exact (Canvas.Inverts.refl c).congr fun x y _ _ => by simp [rowCovers]
  | succ n ih =>
    rw [List.range_succ, List.foldl_append]
    refine ((ih (by omega)).trans (Canvas.plotBit_inverts _ b x0 y0 hn) fun x y _ _ hlast => ?_).congr
      fun x y _ _ => (rowCovers_succ b n x0 y0 x y).symm
    obtain ⟨⟨hcol, -⟩, -⟩ : (spriteColumn x0 x = n ∧ spriteRow y0 y = 0) ∧ b.getLsbD (7 - n) = true := by
      simpa [bitCovers] using hlast
    simp [rowCovers, hcol]

theorem Canvas.drawRow_inverts (c : Canvas) (b : Byte) (x0 y0 : Nat) :
    c.Inverts (rowCovers b 8 x0 y0) (c.drawRow x0 y0 b) :=
  c.drawColumns_inverts b x0 y0 le_rfl

/-- At most 32 rows reach no row of the screen twice, so each row of the sprite inverts cells of its own. -/
theorem Canvas.drawRows_inverts (c : Canvas) {rows : List Byte} (hlen : rows.length ≤ 32) (x0 y0 : Nat) :
    c.Inverts (rowsCover rows x0 y0) (c.drawRows x0 y0 rows) := by
  induction rows generalizing c y0 with
  | nil => exact (Canvas.Inverts.refl c).congr fun x y _ _ => by simp [rowsCover]
  | cons b bs ih =>
    have hbs : bs.length < 32 := hlen
    refine ((c.drawRow_inverts b x0 y0).trans (ih (c.drawRow x0 y0 b) hbs.le (y0 + 1)) fun x y _ _ hlater => ?_).congr
      fun x y _ _ => (rowsCover_cons b hbs x0 y0 x y).symm
    have hr : spriteRow y0 y ≠ 0 := fun hr => Bool.false_ne_true ((rowsCover_wrapped hbs hr x0 x).symm.trans hlater)
    simp [rowCovers, hr]

/-! ### DXYN -/

/-- The canvas of an in-range DXYN: the cells that its sprite covers are inverted and the hit is its collision. -/
theorem drawRows_inverts_spriteCovers (s : State) (x0 y0 : Nat) (n : Nibble) :
    Canvas.Inverts (spriteCovers s x0 y0 n.val) ⟨s.fb, false⟩
      (Canvas.drawRows ⟨s.fb, false⟩ x0 y0 (s.mem.readBytes s.i.toNat n.val)) := by
  have hlen : (s.mem.readBytes s.i.toNat n.val).length ≤ 32 := by
    rw [Memory.length_readBytes]
    omega
  exact (Canvas.drawRows_inverts _ hlen x0 y0).congr fun x y _ _ => rowsCover_readBytes s x0 y0 n.val x y

/-- Settles O41: the canvas gives the cells and the collision, and the rest is the frame of the drawing
instruction. -/
theorem drawInvertsTheCoveredCells : Obligations.DrawInvertsTheCoveredCells := by
  intro x y n s hin
  obtain ⟨hcell, hhit⟩ := drawRows_inverts_spriteCovers s (s.getV x).toNat (s.getV y).toNat n
  simp only [Bool.false_eq_true, false_or, ← spriteHits_iff_meets] at hhit
  refine ⟨_, exec_drwVxVyN_ok s x y n hin, hcell, fun h => ?_, fun h => ?_, fun r hr => ?_, rfl, rfl,
    by simp [unchangedBut_iff, drawSprite]⟩
  · simp [drawSprite, hhit.2 h, flagByte]
  · simp [drawSprite, Bool.eq_false_iff.2 (mt hhit.1 h), flagByte]
  · have hne : r ≠ regVF := by simpa using hr
    simp [drawSprite, hne]

/-! ### Drawing twice -/

/-- What a sprite covers depends on memory and `I` alone (R150). -/
theorem spriteCovers_congr {s t : State} (hi : AgreeOn .i s t) (hmem : AgreeOn .mem s t) (x0 y0 n : Nat) :
    spriteCovers t x0 y0 n = spriteCovers s x0 y0 n := by
  funext x y
  have hindex : t.i = s.i := hi
  rw [spriteCovers_eq, spriteCovers_eq, hindex, hmem]

/-- What an in-range DXYN leaves on the screen, and VF as an equivalence: it is 1 or 0. -/
theorem exec_drwVxVyN_display {x y : Reg} {n : Nibble} {s t : State} (hin : n.val = 0 ∨ s.i.toNat + n.val ≤ 0x1000)
    (h : exec (.drwVxVyN x y n) s = .next t) :
    (∀ cx cy, cx < 64 → cy < 32 → t.fb.cell cx cy =
      (s.fb.cell cx cy ^^ spriteCovers s (s.getV x).toNat (s.getV y).toNat n.val cx cy)) ∧
    (t.getV regVF = 1 ↔ spriteHits s (s.getV x).toNat (s.getV y).toNat n.val) ∧
    AgreeOn .i s t ∧ AgreeOn .mem s t := by
  obtain ⟨t', hrun, hcell, hhit, hmiss, -, -, -, hframe⟩ := drawInvertsTheCoveredCells x y n s hin
  obtain rfl : t' = t := Host.Outcome.next.inj (hrun.symm.trans h)
  refine ⟨hcell, ⟨fun hone => ?_, hhit⟩, hframe .i (by decide), hframe .mem (by decide)⟩
  by_contra hno
  exact absurd (hone.symm.trans (hmiss hno)) (by decide)

/-- Settles O42: the second draw covers the same cells as the first, and those that are on by then were off before. -/
theorem drawTwiceRestoresTheDisplay : Obligations.DrawTwiceRestoresTheDisplay := by
  intro x y n s t u hin hfirst hx hy hsecond
  obtain ⟨hcell, -, hi, hmem⟩ := exec_drwVxVyN_display hin hfirst
  have hindex : t.i = s.i := hi
  obtain ⟨hcell', hflag, -⟩ := exec_drwVxVyN_display (hindex ▸ hin) hsecond
  simp only [spriteHits, hx, hy, spriteCovers_congr hi hmem] at hcell' hflag
  refine ⟨Framebuffer.ext_cell fun cx cy hcx hcy => ?_, hflag.trans ?_⟩
  · rw [hcell' cx cy hcx hcy, hcell cx cy hcx hcy, Bool.xor_assoc, Bool.xor_self, Bool.xor_false]
  · refine exists₂_congr fun cx cy => and_congr_right fun hcx => and_congr_right fun hcy =>
      and_congr_left fun hcov => ?_
    rw [hcell cx cy hcx hcy, hcov, Bool.xor_true, Bool.not_eq_true']

end Sys2Proof.Machine

/-! PROOFS. Keys and timers (44_keys_timers.md): the wait for a key (R163, R164), the skips on a key (R160 to R162), and
the instructions that move a timer (R165 to R167). -/

namespace Sys2Proof

/-! ### The family the timer instructions stand in -/

theorem decodeWord_familyF {w : Word} (h : fieldFamily w = 0xF) : decodeWord w = decodeFamilyF w := by
  simp only [decodeWord, decodeWordWith, h]

end Sys2Proof

namespace Sys2Proof.Machine

/-! ### The wait for a key -/

theorem State.keyDown_congr {s t : State} (h : t.key = s.key) (k : Fin 16) : t.keyDown k = s.keyDown k := by
  rw [State.keyDown, State.keyDown, h]

/-- The pick is the one pressed key below which none is pressed (R163). -/
theorem State.pickKey_of_lowest {s : State} {k : Fin 16} (hk : s.keyDown k = true)
    (hlow : ∀ j : Fin 16, j < k → s.keyDown j = false) : s.pickKey = some k := by
  cases hp : s.pickKey with
  | none => exact absurd (hk.symm.trans (s.pickKey_none.1 hp k)) (by decide)
  | some m =>
    obtain ⟨hm, hbelow⟩ := s.pickKey_some hp
    obtain hlt | rfl | hgt := lt_trichotomy m k
    · exact absurd (hm.symm.trans (hlow m hlt)) (by decide)
    · rfl
    · exact absurd (hk.symm.trans (hbelow k hgt)) (by decide)

theorem toNat_keyIndex (k : Fin 16) : (BitVec.ofNat 8 k.val).toNat = k.val := by
  rw [BitVec.toNat_ofNat]
  omega

/-- Settles O44: the lowest pressed key is the one that is picked, and its index fits a register. -/
theorem keyWaitTakesTheLowestKey : Obligations.KeyWaitTakesTheLowestKey := by
  refine fun x s => ⟨fun k hk hlow => ?_, exec_ldVxK_none s x⟩
  refine ⟨_, exec_ldVxK_some s x (State.pickKey_of_lowest hk hlow), ?_, s.setV_advance_frame x _⟩
  rw [State.getV_setV_advance_same, toNat_keyIndex]

/-- An FX0A stands at `PC` and no key is pressed (R164). -/
def WaitsForKey (x : Reg) (s : State) : Prop :=
  fetchedInstr s = some (.ldVxK x) ∧ ∀ k : Fin 16, s.keyDown k = false

/-- The execute phase of the wait changes nothing, `PC` included. -/
theorem WaitsForKey.step_eq_tick {x : Reg} {s : State} (h : WaitsForKey x s) :
    ∃ u, step s = .next u.tick ∧ UnchangedBut [.err, .rnd, .draws] s u := by
  obtain ⟨hi, hup⟩ := h
  exact ⟨s.stepStart, step_of_exec hi (exec_ldVxK_none s.stepStart x hup), s.stepStart_unchangedBut⟩

/-- The wait looks at `PC`, memory and the keys alone. -/
theorem WaitsForKey.of_frame {x : Reg} {s t : State} (h : WaitsForKey x s)
    (hframe : UnchangedBut [.dt, .st, .beepReq, .err, .rnd, .draws] s t) : WaitsForKey x t := by
  obtain ⟨hi, hup⟩ := h
  exact ⟨(fetchedInstr_congr (hframe .pc (by decide)) (hframe .mem (by decide))).trans hi,
    fun k => (State.keyDown_congr (hframe .key (by decide)) k).trans (hup k)⟩

/-- Settles O45: each step of the wait is the timer update alone, and the machine still waits after it. -/
theorem keyWaitHoldsForAnyNumberOfSteps : Obligations.KeyWaitHoldsForAnyNumberOfSteps := by
  intro n x s hi hup
  obtain ⟨t, hrun, ht⟩ := stepRepeat_onlyTimersRan (P := WaitsForKey x) (fun _ => WaitsForKey.step_eq_tick)
    (fun _ _ => WaitsForKey.of_frame) n ⟨hi, hup⟩
  exact ⟨t, hrun, ht.dt, ht.st, ht.beepReq, ht.frame⟩

/-! ### The skips on a key -/

theorem exec_skpVx {x : Reg} {s : State} {k : Fin 16} (h : lowNibble (s.getV x) = k) :
    exec (.skpVx x) s = .next (s.skipIf (decide (s.keyDown k = true))) := by
  rw [Bool.decide_eq_true, ← h]
  rfl

theorem exec_sknpVx {x : Reg} {s : State} {k : Fin 16} (h : lowNibble (s.getV x) = k) :
    exec (.sknpVx x) s = .next (s.skipIf (decide (s.keyDown k = false))) := by
  rw [Bool.decide_eq_false, ← h]
  rfl

/-- Settles O43: both are skips on the key that the low nibble selects. -/
theorem keySkipsReadTheLowNibble : Obligations.KeySkipsReadTheLowNibble := by
  intro x s k hk
  have hkey : lowNibble (s.getV x) = k := Fin.ext hk.symm
  exact ⟨⟨_, exec_skpVx hkey, s.skipIf_effect (s.keyDown k = true)⟩,
    ⟨_, exec_sknpVx hkey, s.skipIf_effect (s.keyDown k = false)⟩⟩

/-! ### The timers -/

/-- No instruction reads the sound timer (R31): other than FX18, which writes it, an instruction does the same whatever
the timer holds. The drawing instructions are run on the changed state; any other leaves both request flags alone. -/
theorem exec_setSt {i : Instr} {s t : State} (b : Byte) (hi : ∀ x, i ≠ .ldStVx x) (h : exec i s = .next t) :
    exec i (s.setSt b) = .next (t.setSt b) := by
  by_cases hdraw : .drawReq ∈ writtenParts i
  · obtain rfl | ⟨x, y, n, rfl⟩ := drawReq_mem_writtenParts.1 hdraw
    · cases h
      rfl
    · obtain ⟨h0, rfl⟩ | ⟨h0, h1, rfl⟩ := exec_drwVxVyN_cases h
      · exact exec_drwVxVyN_ok (s.setSt b) x y n h0
      · exact exec_drwVxVyN_error (s.setSt b) x y n h0 h1
  · obtain ⟨b', d', p', hrun⟩ := exec_withHostFlags h b s.drawReq s.beepReq
    have hframe := exec_unchangedBut_writtenParts h
    have hframe' := exec_unchangedBut_writtenParts hrun
    have hst : .st ∉ writtenParts i := by simpa [st_mem_writtenParts] using hi
    have hbeep := beepReq_notMem_writtenParts i
    obtain rfl : b' = b := hframe' .st hst
    obtain rfl : d' = t.drawReq := Eq.trans (hframe' .drawReq hdraw) (Eq.symm (hframe .drawReq hdraw))
    obtain rfl : p' = t.beepReq := Eq.trans (hframe' .beepReq hbeep) (Eq.symm (hframe .beepReq hbeep))
    exact hrun

/-- Settles O47: each of the three is one write, and the timer update counts down what it leaves in the timers. -/
theorem timerInstructionsMoveTimers : Obligations.TimerInstructionsMoveTimers := by
  refine ⟨fun w hf hs => ?_, fun w hf hs => ?_, fun w hf hs => ?_, fun x s => ?_, fun x s => ?_, fun x s => ?_,
    fun i s t b => exec_setSt b⟩
  · simp [decodeWord_familyF hf, decodeFamilyF, hs]
  · simp [decodeWord_familyF hf, decodeFamilyF, hs]
  · simp [decodeWord_familyF hf, decodeFamilyF, hs]
  · obtain ⟨hregs, hpc, hframe⟩ := s.setV_advance_frame x s.dt
    have hread := s.getV_setV_advance_same x s.dt
    exact ⟨_, rfl, hread, hregs, hpc, hframe, hread, toNat_countDown s.dt⟩
  · exact ⟨(s.setDt (s.getV x)).advance, rfl, rfl, rfl, by simp [unchangedBut_iff], toNat_countDown (s.getV x)⟩
  · exact ⟨(s.setSt (s.getV x)).advance, rfl, rfl, rfl, by simp [unchangedBut_iff], toNat_countDown (s.getV x), rfl⟩

end Sys2Proof.Machine

/-! PROOFS. Index register and memory instructions (45_index_memory.md): the sum and the glyph address that go to `I`
(R172, R173), and the runs of bytes stored from and loaded into the registers (R174 to R176). -/

namespace Sys2Proof.Machine

/-! ### Stores of a run of bytes -/

/-- Right after a run of bytes was written at `a`, the byte at `a + k` is the run's `k`-th (R50, R58). -/
theorem Memory.read_writeBytes_of_lt (m : Memory) (a : Nat) {bytes : List Byte} {k : Nat} (h : k < bytes.length) :
    (m.writeBytes a bytes).read (a + k) = bytes.getD k 0 := by
  rw [Memory.read_writeBytes, if_pos (by omega), Nat.add_sub_cancel_left]

/-- An instruction that stores a run of `n` bytes leaves the rest alone and goes on to the next word (R52, R94). -/
theorem State.setMem_writeBytes_advance_frame (s : State) (a : Nat) {bytes : List Byte} {n : Nat}
    (h : bytes.length = n) :
    MemoryUnchangedOutside a n s (s.setMem (s.mem.writeBytes a bytes)).advance ∧
      (s.setMem (s.mem.writeBytes a bytes)).advance.pc = s.pc + 2#16 ∧
      UnchangedBut [.mem, .pc] s (s.setMem (s.mem.writeBytes a bytes)).advance := by
  refine ⟨fun k hk => ?_, rfl, by simp [unchangedBut_iff]⟩
  rw [State.advance_mem, State.setMem_mem, Memory.read_writeBytes, if_neg (by omega)]

/-- The digits as numbers, hundreds first (R174). -/
theorem map_toNat_bcdDigits (b : Byte) :
    (bcdDigits b).map BitVec.toNat = [b.toNat / 100, b.toNat / 10 % 10, b.toNat % 10] := by
  have hb := b.isLt
  have hundreds : b.toNat / 100 % 2 ^ 8 = b.toNat / 100 := Nat.mod_eq_of_lt (by omega)
  have tens : b.toNat / 10 % 10 % 2 ^ 8 = b.toNat / 10 % 10 := Nat.mod_eq_of_lt (by omega)
  have ones : b.toNat % 10 % 2 ^ 8 = b.toNat % 10 := Nat.mod_eq_of_lt (by omega)
  simp only [bcdDigits, List.map_cons, List.map_nil, BitVec.toNat_ofNat, hundreds, tens, ones]

/-- After the digits of `b` were stored at `a`, the byte at `a + k` is the `k`-th of them (R174). -/
theorem Memory.toNat_read_writeBytes_bcdDigits (m : Memory) (a : Nat) (b : Byte) {k : Nat} (hk : k < 3) :
    ((m.writeBytes a (bcdDigits b)).read (a + k)).toNat =
      [b.toNat / 100, b.toNat / 10 % 10, b.toNat % 10].getD k 0 := by
  rw [Memory.read_writeBytes_of_lt m a (by rwa [length_bcdDigits]), ← map_toNat_bcdDigits]
  exact (List.getD_map (bcdDigits b) 0 BitVec.toNat).symm

/-- Settles O52: the store is of the three digits, each at its place in the run. -/
theorem storeDecimalDigits : Obligations.StoreDecimalDigits := by
  intro x s hin
  have hdigit := fun k => s.mem.toNat_read_writeBytes_bcdDigits s.i.toNat (s.getV x) (k := k)
  exact ⟨_, exec_ldBVx_ok s x (Nat.succ_le_succ hin), hdigit 0 (by decide), hdigit 1 (by decide), hdigit 2 (by decide),
    s.setMem_writeBytes_advance_frame s.i.toNat (length_bcdDigits (s.getV x))⟩

/-- Settles O53: the run stored has the bytes `V[0]` to `V[X]`, and `I` is in the frame (D11). -/
theorem storeRegistersWritesTheRun : Obligations.StoreRegistersWritesTheRun := fun x s hin =>
  ⟨_, exec_ldMemVx_ok s x (Nat.succ_le_succ hin),
    fun _ hk => Memory.read_writeBytes_lowRegisters s.mem s.i.toNat s hk,
    s.setMem_writeBytes_advance_frame s.i.toNat (length_lowRegisters s x)⟩

/-! ### Loads of a run of bytes -/

/-- Settles O54: a register that the run reaches takes its byte, a higher one keeps its value (D11 keeps `I`). -/
theorem loadRegistersReadsTheRun : Obligations.LoadRegistersReadsTheRun := by
  intro x s hin
  refine ⟨_, exec_ldVxMem_ok s x (Nat.succ_le_succ hin), fun k => ?_, rfl, by simp [unchangedBut_iff]⟩
  simp only [State.getV_advance, State.getV_setLowV, Memory.getD_readBytes, Nat.lt_succ_iff, Fin.le_def]

/-- Settles O55: the store kept `I` (D11), so the load reads the addresses that the store wrote. -/
theorem storeThenLoadGivesRegistersBack : Obligations.StoreThenLoadGivesRegistersBack := by
  intro x s t u hin hstore hmem hi
  have hkept : t.i = s.i := exec_unchangedBut_writtenParts hstore .i (by simp [writtenParts])
  have hindex : u.i = s.i := hi.trans hkept
  obtain ⟨r, hload, hread, -⟩ := loadRegistersReadsTheRun x u (by rwa [hindex])
  refine ⟨r, hload, fun k hk => ?_⟩
  rw [hread, if_pos hk, hmem, hindex, exec_ldMemVx_read hin hstore hk]

/-! ### The index register -/

theorem toNat_indexSum (a : Word) (b : Byte) : (indexSum a b).toNat = (a.toNat + b.toNat) % 65536 :=
  BitVec.toNat_ofNat _ _

theorem toNat_flagByte_indexOverflow (a : Word) (b : Byte) :
    (flagByte (indexOverflow a b)).toNat = if a.toNat + b.toNat > 0xFFF then 1 else 0 :=
  toNat_flagByte_decide _

/-- Settles O50: sum and flag are of the old `I` and the old `V[X]`, so also with `X` = 15 (D13). -/
theorem addToIndexSetsOverflow : Obligations.AddToIndexSetsOverflow := by
  intro x s
  refine ⟨_, rfl, toNat_indexSum s.i (s.getV x), ?_, fun r hr => ?_, rfl, by simp [unchangedBut_iff]⟩
  · rw [State.getV_advance, State.getV_setFlag, if_pos rfl, toNat_flagByte_indexOverflow]
  · have hne : r ≠ regVF := by simpa using hr
    simp [hne]

/-- The font stands at address 0 (D15), so a glyph's address is at most 75. -/
theorem toNat_glyphAddress (b : Byte) : (glyphAddress b).toNat = 5 * (b.toNat % 16) := by
  rw [glyphAddress, BitVec.toNat_ofNat]
  simp only [Config.fontBase, lowNibble]
  omega

/-- Settles O51: the glyph's address is all that FX29 writes besides `PC`. -/
theorem glyphAddressIsFiveTimesDigit : Obligations.GlyphAddressIsFiveTimesDigit := fun x s =>
  ⟨_, rfl, toNat_glyphAddress (s.getV x), rfl, by simp [unchangedBut_iff]⟩

end Sys2Proof.Machine

/-! PROOFS. The host's operations (46_host_interface.md): the load of an image (R181), and the two request flags, which
a step raises at most and only the host lowers (R183, R184). -/

namespace Sys2Proof.Machine

/-! ### The load of an image -/

/-- An image that fits is written to 0x200 and up (R181). -/
theorem load_of_fits {image : List Byte} (s : State) (h : image.length ≤ 3584) :
    load image s = .ok (s.setMem (s.mem.writeBytes 0x200 image)) :=
  if_neg h.not_gt

theorem hostMove_load_of_ok {image : List Byte} {s t : State} (h : load image s = .ok t) :
    hostMove (.load image) s = .next t := by
  rw [hostMove, h]

/-- A run of bytes written at `a` leaves what lies below `a` and what lies past the run (R52). -/
theorem Memory.read_writeBytes_outside {m : Memory} {a k : Nat} {bytes : List Byte}
    (h : k < a ∨ a + bytes.length ≤ k) : (m.writeBytes a bytes).read k = m.read k := by
  rw [Memory.read_writeBytes, if_neg (by omega)]

/-- Settles O57: an image that fits is one run of bytes written at 0x200. -/
theorem loadCopiesTheImage : Obligations.LoadCopiesTheImage := by
  intro image s hfits
  have hload := load_of_fits s hfits
  have hmove := hostMove_load_of_ok hload
  exact ⟨_, hload, hmove, fun _ => s.mem.read_writeBytes_of_lt 0x200, fun _ => Memory.read_writeBytes_outside,
    hostMove_load_unchangedBut hmove⟩

/-! ### The draw request -/

/-- An instruction keeps the draw request, or it is a drawing instruction and sets it (R183). -/
theorem exec_drawReq_cases {i : Instr} {s t : State} (h : exec i s = .next t) :
    t.drawReq = s.drawReq ∨ t.drawReq = true ∧ .drawReq ∈ writtenParts i := by
  by_cases hdraw : .drawReq ∈ writtenParts i
  · obtain rfl | ⟨x, y, n, rfl⟩ := drawReq_mem_writtenParts.1 hdraw
    · cases h
      exact .inr ⟨rfl, hdraw⟩
    · obtain ⟨-, rfl⟩ | ⟨-, -, rfl⟩ := exec_drwVxVyN_cases h
      · exact .inr ⟨rfl, hdraw⟩
      · exact .inl rfl
  · exact .inl (exec_unchangedBut_writtenParts h .drawReq hdraw)

/-- A step keeps the draw request, or it ran 00E0 or DXYN and set it: no other phase writes the flag. -/
theorem step_drawReq_cases {s t : State} (h : step s = .next t) :
    t.drawReq = s.drawReq ∨
      t.drawReq = true ∧ (fetchedInstr s = some .cls ∨ ∃ x y n, fetchedInstr s = some (.drwVxVyN x y n)) := by
  obtain ⟨e, -, -, rfl⟩ | ⟨w, -, -, rfl⟩ | ⟨i, u, -, hi, hu, rfl⟩ := cycle_next_cases h
  · exact .inl rfl
  · exact .inl rfl
  · have hfetched : fetchedInstr s = some i := hi
    obtain hkept | ⟨hset, hdraw⟩ := exec_drawReq_cases hu
    · exact .inl hkept
    · refine .inr ⟨hset, ?_⟩
      simpa only [hfetched, Option.some.injEq] using drawReq_mem_writtenParts.1 hdraw

/-- Settles O59: the step keeps the flag or sets it, and what sets it is a drawing instruction. -/
theorem drawRequestIsClearedByTheHostAlone : Obligations.DrawRequestIsClearedByTheHostAlone := by
  refine ⟨fun s => ⟨rfl, by simp [unchangedBut_iff, clearDrawRequest]⟩, fun s t h hup => ?_, fun s t h hdown hup => ?_⟩
  · obtain hkept | ⟨hset, -⟩ := step_drawReq_cases h
    · exact hkept.trans hup
    · exact hset
  · obtain hkept | ⟨-, hdraw⟩ := step_drawReq_cases h
    · exact absurd (hup.symm.trans (hkept.trans hdown)) (by decide)
    · exact hdraw

/-! ### The beep request -/

/-- The timer update ors into the beep request, and no other phase of the step writes it (D22). -/
theorem step_beepReq_or {s t : State} (h : step s = .next t) : ∃ b, t.beepReq = (s.beepReq || b) := by
  obtain ⟨u, rfl, hframe⟩ := cycle_eq_tick h
  have hkept : u.beepReq = s.beepReq :=
    hframe .beepReq (by simp [mem_writtenBeforeTick, beepReq_notMem_writtenParts])
  exact ⟨decide (u.st = 1), by rw [State.tick_beepReq, hkept]⟩

/-- Settles O60: what is or-ed into a raised flag leaves it raised. -/
theorem beepRequestIsClearedByTheHostAlone : Obligations.BeepRequestIsClearedByTheHostAlone := by
  refine ⟨fun s => ⟨rfl, by simp [unchangedBut_iff, clearBeepRequest]⟩, fun s t h hup => ?_⟩
  obtain ⟨b, hor⟩ := step_beepReq_or h
  rw [hor, hup, Bool.true_or]

end Sys2Proof.Machine

/-! PROOFS. The canonical form of memory (log 12): the two stores write inside memory only, every other instruction
leaves the very same cells listed, and so do the rest of the cycle and the host's moves but the reset and a load. -/

namespace Sys2Proof.Machine

theorem MemoryCanonical.of_mem_eq {s t : State} (h : MemoryCanonical s) (hmem : t.mem = s.mem) : MemoryCanonical t := by
  rwa [MemoryCanonical, hmem]

/-- Bytes stored where they all exist leave the canonical form (R53). -/
theorem MemoryCanonical.of_writeBytes {s t : State} {a : Nat} {bytes : List Byte} (h : MemoryCanonical s)
    (ha : a + bytes.length ≤ Config.memSize) (hmem : t.mem = s.mem.writeBytes a bytes) : MemoryCanonical t := by
  rw [MemoryCanonical, hmem]
  exact Memory.wf_writeBytes h ha

/-- An instruction that does not store keeps memory as data, not only what its addresses read as. -/
theorem exec_mem_eq {i : Instr} {s t : State} (h : exec i s = .next t) (hi : .mem ∉ writtenParts i) :
    t.mem = s.mem := by
  cases i with
  | ldBVx | ldMemVx => simp [writtenParts] at hi
  | ret => obtain ⟨-, rfl⟩ | ⟨-, rfl⟩ := exec_ret_cases h <;> rfl
  | callNnn nnn => obtain ⟨-, rfl⟩ | ⟨-, rfl⟩ := exec_callNnn_cases h <;> rfl
  | drwVxVyN x y n => obtain ⟨-, rfl⟩ | ⟨-, -, rfl⟩ := exec_drwVxVyN_cases h <;> rfl
  | ldVxK x => obtain ⟨k, -, rfl⟩ | ⟨-, rfl⟩ := exec_ldVxK_cases h <;> rfl
  | ldVxMem x => obtain ⟨-, rfl⟩ | ⟨-, rfl⟩ := exec_ldVxMem_cases h <;> rfl
  | seVxNn | sneVxNn | seVxVy | sneVxVy | skpVx | sknpVx =>
    cases h
    rw [State.skipIf_eq, State.setPc_mem]
  | cls | jpNnn | ldVxNn | addVxNn | ldVxVy | orVxVy | andVxVy | xorVxVy | addVxVy | subVxVy | shrVx | subnVxVy
  | shlVx | ldINnn | jpV0Nnn | rndVxNn | ldVxDt | ldDtVx | ldStVx | addIVx | ldFVx =>
    cases h
    rfl

/-- A store that passes the bounds check writes addresses that exist, one that does not writes nothing (R53). -/
theorem exec_memoryCanonical {i : Instr} {s t : State} (hs : MemoryCanonical s) (h : exec i s = .next t) :
    MemoryCanonical t := by
  by_cases hmem : .mem ∈ writtenParts i
  · obtain ⟨x, rfl⟩ | ⟨x, rfl⟩ := mem_mem_writtenParts.1 hmem
    · obtain ⟨hb, rfl⟩ | ⟨-, rfl⟩ := exec_ldBVx_cases h
      · exact hs.of_writeBytes (by rwa [length_bcdDigits]) rfl
      · exact hs.of_mem_eq rfl
    · obtain ⟨hb, rfl⟩ | ⟨-, rfl⟩ := exec_ldMemVx_cases h
      · exact hs.of_writeBytes (by rwa [length_lowRegisters]) rfl
      · exact hs.of_mem_eq rfl
  · exact hs.of_mem_eq (exec_mem_eq h hmem)

/-- Neither an error of the fetch or the decoding nor the timer update writes memory (R192, R193, R96). -/
theorem cycle_memoryCanonical {rnd : Byte} {s t : State} (hs : MemoryCanonical s) (h : cycle rnd s = .next t) :
    MemoryCanonical t := by
  obtain ⟨e, -, -, rfl⟩ | ⟨w, -, -, rfl⟩ | ⟨i, u, -, -, hu, rfl⟩ := cycle_next_cases h
  · exact hs.of_mem_eq rfl
  · exact hs.of_mem_eq rfl
  · have hbegin : MemoryCanonical (s.beginCycle rnd) := hs.of_mem_eq rfl
    exact (exec_memoryCanonical hbegin hu).of_mem_eq rfl

/-- An image that is too long for the program space is refused (R196). -/
theorem load_of_too_large {image : List Byte} (s : State) (h : 3584 < image.length) :
    load image s = .error .romTooLarge :=
  if_pos h

theorem hostMove_load_of_error {image : List Byte} {s : State} {e : MachineError} (h : load image s = .error e) :
    hostMove (.load image) s = .next s := by
  rw [hostMove, h]

/-- Everything the host's load can end in: the image that fits stands at 0x200 and up, the other changes nothing
(R181, R196). -/
theorem hostMove_load_cases {image : List Byte} {s t : State} (h : hostMove (.load image) s = .next t) :
    (image.length ≤ 3584 ∧ t = s.setMem (s.mem.writeBytes 0x200 image)) ∨ (3584 < image.length ∧ t = s) := by
  by_cases hfits : image.length ≤ 3584
  · rw [hostMove_load_of_ok (load_of_fits s hfits)] at h
    exact .inl ⟨hfits, (Host.Outcome.next.inj h).symm⟩
  · rw [hostMove_load_of_error (load_of_too_large s (by omega))] at h
    exact .inr ⟨by omega, (Host.Outcome.next.inj h).symm⟩

/-- An image that fits ends at 0xFFF at most, since 0x200 + 3584 is the size of memory (R181). -/
theorem hostMove_memoryCanonical {m : HostMove} {s t : State} (hs : MemoryCanonical s) (h : hostMove m s = .next t) :
    MemoryCanonical t := by
  cases m with
  | reset =>
    cases h
    exact resetMeetsBothInvariants.1.of_mem_eq rfl
  | load image =>
    obtain ⟨hfits, rfl⟩ | ⟨-, rfl⟩ := hostMove_load_cases h
    · exact hs.of_writeBytes (by rw [Config.memSize]; omega) rfl
    · exact hs
  | setKey | clearDrawRequest | clearBeepRequest =>
    cases h
    exact hs.of_mem_eq rfl
  | step rnd => exact cycle_memoryCanonical hs h

/-- Settles O18, by the preservation of the form through the execute phase, the cycle and the moves of the host. -/
theorem stepsKeepMemoryCanonical : Obligations.StepsKeepMemoryCanonical := by
  intro s hs
  have hdraw : MemoryCanonical s.takeDraw := hs.of_mem_eq rfl
  exact ⟨fun _ h => cycle_memoryCanonical hdraw h, fun _ _ h => hostMove_memoryCanonical hs h⟩

end Sys2Proof.Machine

/-! PROOFS. The host's reset and the load it is refused (R196, R220, R221), and the two instructions of families A and
B, admitted by D2 (R118, R171). -/

namespace Sys2Proof.Machine

/-- Settles O58: the error of the load leaves the host with the state it had, and any state can be stepped. -/
theorem tooLargeImageChangesNothing : Obligations.TooLargeImageChangesNothing := by
  intro image s hlarge
  have hload := load_of_too_large s hlarge
  exact ⟨hload, hostMove_load_of_error hload, step_answers_next s⟩

/-- Settles O2: the only part of the state before that the host's reset reads is the counter of random bytes. -/
theorem hostResetForgetsTheStateBefore : Obligations.HostResetForgetsTheStateBefore := fun s =>
  ⟨by simp [unchangedBut_iff, hostReset], rfl⟩

/-- The sum is at most 0xFFF + 0xFF, which 16 bits hold (R118). -/
theorem toNat_offsetTarget (s : State) (nnn : Addr12) :
    (offsetTarget s nnn).toNat = nnn.toNat + (s.getV 0).toNat := by
  have := nnn.isLt
  have := (s.getV 0).isLt
  rw [offsetTarget, BitVec.toNat_ofNat]
  omega

/-- Settles O27: the sum is written as it stands (D26). -/
theorem jumpWithOffsetAddsRegisterZero : Obligations.JumpWithOffsetAddsRegisterZero := fun nnn s =>
  ⟨s.setPc (offsetTarget s nnn), rfl, toNat_offsetTarget s nnn, s.setPc_unchangedBut _⟩

/-- Settles O49: the address is all that ANNN writes besides `PC`. -/
theorem loadIndexWritesAddress : Obligations.LoadIndexWritesAddress := fun nnn s =>
  ⟨(s.setI (addrOperand nnn)).advance, rfl, toNat_addrOperand nnn, rfl, by simp [unchangedBut_iff]⟩

end Sys2Proof.Machine
